-- ==== Sys2Proof/Word.lean ====
section
/-! DEFINITION. The widths of the quantities the block moves and compares (spec/00_scope.md R7, R9, R10). -/

namespace Sys2Proof

/-- A data byte: every transfer of the block moves exactly one (R61). -/
abbrev Byte := BitVec 8

/-- A window address: a bus address after the 13-bit mask of R51. -/
abbrev WindowAddr := BitVec 13

/-- A value of the external distinct-access counter `D`, 32 bits unsigned (R7). -/
abbrev Count := BitVec 32

/-- A value of the external bus-cycle counter `C`, 64 bits unsigned (R7). -/
abbrev Cycles := BitVec 64

/-- A bank index, 0 to 3 (R20, R23). -/
abbrev BankIx := BitVec 2

end Sys2Proof
end

