-- ==== Sys2Proof/Syntax.lean ====
section
/-! DEFINITION. The "instructions" of the block (R70): one constructor per row of spec/opcode_table.json, with the operand bits its row leaves free. -/

namespace Sys2Proof

/-- The kind of a bus access (R33): `peek` is a read cycle, `poke` a write cycle. -/
inductive Kind where
  | peek
  | poke
deriving DecidableEq, Repr

/-- The four encodings of spec/30_encoding.md, one per "format" of spec/opcode_table.json. -/
inductive Format where
  /-- The 14-bit access word (R71). -/
  | accessWord
  /-- The 8-bit configuration byte (R74). -/
  | configByte
  /-- The 8-bit page descriptor (R78). -/
  | pageDescriptor
  /-- The 4-bit host-operation selector (R79). -/
  | hostSelector
deriving DecidableEq, Repr

/-- How many bits a word of the format has (R71, R74, R78, R79). -/
def Format.bits : Format → Nat
  | .accessWord => 14
  | .configByte => 8
  | .pageDescriptor => 8
  | .hostSelector => 4

/-- One constructor per row of spec/opcode_table.json. -/
inductive Instr where
  /-- ACC.LOAD (R102): the load trigger, all 14 bits fixed. -/
  | accLoad
  /-- ACC.EXPIRE (R103): the expiry pre-step of an access to window address `a`. -/
  | accExpire (kind : Kind) (a : WindowAddr)
  /-- ACC.ARM (R104): an access to 0x1000 + `low`. -/
  | accArm (kind : Kind) (low : Byte)
  /-- ACC.CONFIG (R105): an access to 0x1FF8. -/
  | accConfig (kind : Kind)
  /-- ACC.COMMIT (R106): the commit test of an access to window address `a`. -/
  | accCommit (kind : Kind) (a : WindowAddr)
  /-- PEEK.DATA (R108): the data return of a `peek` of `a`. -/
  | peekData (a : WindowAddr)
  /-- POKE.END (R109): the end of a `poke` to `a`. -/
  | pokeEnd (a : WindowAddr)
  /-- CFG.MODE0 (R141): a configuration byte with mode field 0, ignored bits 7:5, write enable `w`, ROM-power inverse `p`. -/
  | cfgMode0 (ignored : BitVec 3) (w p : Bool)
  /-- CFG.MODE1 (R141). -/
  | cfgMode1 (ignored : BitVec 3) (w p : Bool)
  /-- CFG.MODE2 (R141). -/
  | cfgMode2 (ignored : BitVec 3) (w p : Bool)
  /-- CFG.MODE3 (R141). -/
  | cfgMode3 (ignored : BitVec 3) (w p : Bool)
  /-- CFG.MODE4 (R141). -/
  | cfgMode4 (ignored : BitVec 3) (w p : Bool)
  /-- CFG.MODE5 (R141). -/
  | cfgMode5 (ignored : BitVec 3) (w p : Bool)
  /-- CFG.MODE6 (R141). -/
  | cfgMode6 (ignored : BitVec 3) (w p : Bool)
  /-- CFG.MODE7 (R141). -/
  | cfgMode7 (ignored : BitVec 3) (w p : Bool)
  /-- DESC.BANK0 (R168): a page descriptor with bank 0 and its page field. -/
  | descBank0 (ignored page : BitVec 3)
  /-- DESC.BANK1 (R168). -/
  | descBank1 (ignored page : BitVec 3)
  /-- DESC.BANK2 (R168). -/
  | descBank2 (ignored page : BitVec 3)
  /-- DESC.ROM (R172): bank 3, checked and not copied. -/
  | descRom (ignored page : BitVec 3)
  /-- HOST.INSTALL (R220). -/
  | hostInstall
  /-- HOST.RESET (R280). -/
  | hostReset
  /-- HOST.SETBANK (R221). -/
  | hostSetbank
  /-- HOST.CURRENTBANK (R222). -/
  | hostCurrentbank
  /-- HOST.BANKCOUNT (R223). -/
  | hostBankcount
  /-- HOST.PATCH (R224). -/
  | hostPatch
  /-- HOST.RAWIMAGE (R225). -/
  | hostRawimage
  /-- HOST.ONSYSTEMCYCLESRESET (R226). -/
  | hostOnsystemcyclesreset
  /-- HOST.CONSTRUCT (R160). -/
  | hostConstruct
deriving DecidableEq, Repr

/-- The format a row belongs to (the "format" column of spec/opcode_table.json). -/
def Instr.format : Instr → Format
  | .accLoad => .accessWord
  | .accExpire _ _ => .accessWord
  | .accArm _ _ => .accessWord
  | .accConfig _ => .accessWord
  | .accCommit _ _ => .accessWord
  | .peekData _ => .accessWord
  | .pokeEnd _ => .accessWord
  | .cfgMode0 _ _ _ => .configByte
  | .cfgMode1 _ _ _ => .configByte
  | .cfgMode2 _ _ _ => .configByte
  | .cfgMode3 _ _ _ => .configByte
  | .cfgMode4 _ _ _ => .configByte
  | .cfgMode5 _ _ _ => .configByte
  | .cfgMode6 _ _ _ => .configByte
  | .cfgMode7 _ _ _ => .configByte
  | .descBank0 _ _ => .pageDescriptor
  | .descBank1 _ _ => .pageDescriptor
  | .descBank2 _ _ => .pageDescriptor
  | .descRom _ _ => .pageDescriptor
  | .hostInstall => .hostSelector
  | .hostReset => .hostSelector
  | .hostSetbank => .hostSelector
  | .hostCurrentbank => .hostSelector
  | .hostBankcount => .hostSelector
  | .hostPatch => .hostSelector
  | .hostRawimage => .hostSelector
  | .hostOnsystemcyclesreset => .hostSelector
  | .hostConstruct => .hostSelector

end Sys2Proof
end

