-- ==== Sys2Proof/WellFormed.lean ====
section
/-! DEFINITION. Which terms of `Instr` are the reading of some word: the checks that the operand types do not make by themselves. -/

namespace Sys2Proof

/-- A window address has a[12] = 1 (R51). -/
def inWindow (a : WindowAddr) : Bool := a.getLsbD 12

/-- The operand checks: an access row takes a window address (R51), and ACC.COMMIT is never the class of the configuration hotspot, where class 4 is always taken (R72, R106). -/
def Instr.wellFormed : Instr → Bool
  | .accLoad => true
  | .accExpire _ a => inWindow a
  | .accArm _ _ => true
  | .accConfig _ => true
  | .accCommit _ a => inWindow a && decide (a ≠ 0x1FF8#13)
  | .peekData a => inWindow a
  | .pokeEnd a => inWindow a
  | .cfgMode0 _ _ _ => true
  | .cfgMode1 _ _ _ => true
  | .cfgMode2 _ _ _ => true
  | .cfgMode3 _ _ _ => true
  | .cfgMode4 _ _ _ => true
  | .cfgMode5 _ _ _ => true
  | .cfgMode6 _ _ _ => true
  | .cfgMode7 _ _ _ => true
  | .descBank0 _ _ => true
  | .descBank1 _ _ => true
  | .descBank2 _ _ => true
  | .descRom _ _ => true
  | .hostInstall => true
  | .hostReset => true
  | .hostSetbank => true
  | .hostCurrentbank => true
  | .hostBankcount => true
  | .hostPatch => true
  | .hostRawimage => true
  | .hostOnsystemcyclesreset => true
  | .hostConstruct => true

end Sys2Proof
end

