-- ==== Sys2Proof/Decode.lean ====
section
/-! DEFINITION. Reading and writing the four encodings of spec/30_encoding.md: field extraction, the decoders (total, refusing by name), the encoder, and the host's `decodeTableWord`. -/

namespace Sys2Proof

/-! ## Fields of the access word (R71) -/

/-- `a <- addr & 0x1FFF` (R51, R101). The presented address is 16 bits wide here, log 11. -/
def windowAddr (addr : BitVec 16) : WindowAddr := addr.setWidth 13

/-- The `rw` bit of a kind: 1 for `peek`, 0 for `poke` (R71). -/
def Kind.rw : Kind → BitVec 1
  | .peek => 1#1
  | .poke => 0#1

/-- The access word `W = rw : a[12:0]` (R71). -/
def accessWord (kind : Kind) (a : WindowAddr) : BitVec 14 := kind.rw ++ a

/-- The kind that `W[13]` says (R71). -/
def wordKind (W : BitVec 14) : Kind := if W.getLsbD 13 then .peek else .poke

/-- `W[12:0]` (R71). -/
def wordAddr (W : BitVec 14) : WindowAddr := W.setWidth 13

/-! ## Fields of the configuration byte (R74) -/

/-- `v[0]`, the ROM-power inverse. -/
def cfgP (v : Byte) : Bool := v.getLsbD 0

/-- `v[1]`, the write enable. -/
def cfgW (v : Byte) : Bool := v.getLsbD 1

/-- `v[4:2]`, the paging mode. -/
def cfgMode (v : Byte) : BitVec 3 := v.extractLsb' 2 3

/-- `v[7:5]`, decoded by nothing (R145). -/
def cfgIgnored (v : Byte) : BitVec 3 := v.extractLsb' 5 3

/-- The configuration byte with the given fields (R74). -/
def configByte (ignored mode : BitVec 3) (w p : Bool) : Byte :=
  ignored ++ mode ++ BitVec.ofBool w ++ BitVec.ofBool p

/-! ## Fields of the page descriptor (R78) -/

/-- `d[1:0]`, the destination bank. -/
def descBank (d : Byte) : BankIx := d.setWidth 2

/-- `d[4:2]`, the destination page within the bank. -/
def descPage (d : Byte) : BitVec 3 := d.extractLsb' 2 3

/-- `d[7:5]`, ignored by the decode, counted in the page checksum. -/
def descIgnored (d : Byte) : BitVec 3 := d.extractLsb' 5 3

/-- The page descriptor with the given fields (R78). -/
def descriptorByte (ignored page : BitVec 3) (bank : BankIx) : Byte := ignored ++ page ++ bank

/-! ## Decoding -/

/-- Why a word is read as nothing. -/
inductive DecodeError where
  /-- An access word with `W[12]` = 0: never delivered to the block (R51). -/
  | outsideWindow
  /-- A host selector that R79 does not list. -/
  | noSuchOperation
  /-- More bits than the format has. -/
  | tooWide
deriving DecidableEq, Repr

/-- A row of R72: the words with `W & mask = pattern`, and the class they are read as. -/
structure AccessRow where
  mask : BitVec 14
  pattern : BitVec 14
  build : Kind → WindowAddr → Instr

/-- The decode classes of R72, in its priority order. -/
def accessRows : List AccessRow :=
  [ ⟨0x3FFF#14, 0x3850#14, fun _ _ => .accLoad⟩,
    ⟨0x1000#14, 0x1000#14, fun k a => .accExpire k a⟩,
    ⟨0x1F00#14, 0x1000#14, fun k a => .accArm k (a.setWidth 8)⟩,
    ⟨0x1FFF#14, 0x1FF8#14, fun k _ => .accConfig k⟩,
    ⟨0x1000#14, 0x1000#14, fun k a => .accCommit k a⟩,
    ⟨0x3000#14, 0x3000#14, fun _ a => .peekData a⟩,
    ⟨0x3000#14, 0x1000#14, fun _ a => .pokeEnd a⟩ ]

/-- Whether the row's mask and match fit the word. -/
def AccessRow.fits (r : AccessRow) (W : BitVec 14) : Bool := decide (W &&& r.mask = r.pattern)

/-- The classes an access word can go through, in the priority order of R72: every row that fits, less the class that can never be taken at that word (ACC.COMMIT at the hotspot). Which of them an access takes depends on the state as well: `classTaken` in Machine/Flags.lean. -/
def decodeAccess (W : BitVec 14) : Except DecodeError (List Instr) :=
  if inWindow (wordAddr W) then
    .ok (((accessRows.filter (·.fits W)).map fun r => r.build (wordKind W) (wordAddr W)).filter (·.wellFormed))
  else .error .outsideWindow

/-- The configuration byte's row (R75): total, since no value is rejected (R146). -/
def decodeConfig (v : Byte) : Instr :=
  match (cfgMode v).toNat with
  | 0 => .cfgMode0 (cfgIgnored v) (cfgW v) (cfgP v)
  | 1 => .cfgMode1 (cfgIgnored v) (cfgW v) (cfgP v)
  | 2 => .cfgMode2 (cfgIgnored v) (cfgW v) (cfgP v)
  | 3 => .cfgMode3 (cfgIgnored v) (cfgW v) (cfgP v)
  | 4 => .cfgMode4 (cfgIgnored v) (cfgW v) (cfgP v)
  | 5 => .cfgMode5 (cfgIgnored v) (cfgW v) (cfgP v)
  | 6 => .cfgMode6 (cfgIgnored v) (cfgW v) (cfgP v)
  | _ => .cfgMode7 (cfgIgnored v) (cfgW v) (cfgP v)

/-- The page descriptor's row (R78, R168). -/
def decodeDescriptor (d : Byte) : Instr :=
  match (descBank d).toNat with
  | 0 => .descBank0 (descIgnored d) (descPage d)
  | 1 => .descBank1 (descIgnored d) (descPage d)
  | 2 => .descBank2 (descIgnored d) (descPage d)
  | _ => .descRom (descIgnored d) (descPage d)

/-- The host operation that a selector names (R79). -/
def decodeHost (sel : BitVec 4) : Except DecodeError Instr :=
  match sel.toNat with
  | 0 => .ok .hostInstall
  | 1 => .ok .hostReset
  | 2 => .ok .hostSetbank
  | 3 => .ok .hostCurrentbank
  | 4 => .ok .hostBankcount
  | 5 => .ok .hostPatch
  | 6 => .ok .hostRawimage
  | 7 => .ok .hostOnsystemcyclesreset
  | 8 => .ok .hostConstruct
  | _ => .error .noSuchOperation

/-- All the rows a word of a format is read as, in priority order: several for an access word (R72), exactly one for the other formats. -/
def decode (f : Format) (w : Nat) : Except DecodeError (List Instr) :=
  if w < 2 ^ f.bits then
    match f with
    | .accessWord => decodeAccess (BitVec.ofNat 14 w)
    | .configByte => .ok [decodeConfig (BitVec.ofNat 8 w)]
    | .pageDescriptor => .ok [decodeDescriptor (BitVec.ofNat 8 w)]
    | .hostSelector =>
      match decodeHost (BitVec.ofNat 4 w) with
      | .ok i => .ok [i]
      | .error e => .error e
  else .error .tooWide

/-! ## Encoding -/

/-- The word of an instruction, in the layout of its format (R71, R74, R78, R79). -/
def encode : Instr → Nat
  | .accLoad => (accessWord .peek 0x1850#13).toNat
  | .accExpire k a => (accessWord k a).toNat
  | .accArm k low => (accessWord k (0b10000#5 ++ low)).toNat
  | .accConfig k => (accessWord k 0x1FF8#13).toNat
  | .accCommit k a => (accessWord k a).toNat
  | .peekData a => (accessWord .peek a).toNat
  | .pokeEnd a => (accessWord .poke a).toNat
  | .cfgMode0 g w p => (configByte g 0#3 w p).toNat
  | .cfgMode1 g w p => (configByte g 1#3 w p).toNat
  | .cfgMode2 g w p => (configByte g 2#3 w p).toNat
  | .cfgMode3 g w p => (configByte g 3#3 w p).toNat
  | .cfgMode4 g w p => (configByte g 4#3 w p).toNat
  | .cfgMode5 g w p => (configByte g 5#3 w p).toNat
  | .cfgMode6 g w p => (configByte g 6#3 w p).toNat
  | .cfgMode7 g w p => (configByte g 7#3 w p).toNat
  | .descBank0 g q => (descriptorByte g q 0#2).toNat
  | .descBank1 g q => (descriptorByte g q 1#2).toNat
  | .descBank2 g q => (descriptorByte g q 2#2).toNat
  | .descRom g q => (descriptorByte g q 3#2).toNat
  | .hostInstall => 0
  | .hostReset => 1
  | .hostSetbank => 2
  | .hostCurrentbank => 3
  | .hostBankcount => 4
  | .hostPatch => 5
  | .hostRawimage => 6
  | .hostOnsystemcyclesreset => 7
  | .hostConstruct => 8

/-! ## One instruction for one table word (log 3) -/

/-- The classes that name an access by its address alone (R72 classes 1 and 4). -/
def Instr.isHotspot : Instr → Bool
  | .accLoad => true
  | .accConfig _ => true
  | _ => false

/-- The one class an access word is listed under where a single answer is wanted: its hotspot class if it has one, else the class that every such access ends with (R72 order 6). -/
def rulingClass (W : BitVec 14) : Option Instr :=
  match decodeAccess W with
  | .ok l => (l.find? (·.isHotspot)).or l.getLast?
  | .error _ => none

/-- The one instruction of a word whose format the word does not tell (log 3): a word of at most 8 bits is a host selector where R79 lists it, else a configuration byte, and a longer one is an access word. -/
def decodeTableWord (nbits w : Nat) : Option Instr :=
  if nbits ≤ 8 then
    if w < 16 then
      match decodeHost (BitVec.ofNat 4 w) with
      | .ok i => some i
      | .error _ => some (decodeConfig (BitVec.ofNat 8 w))
    else if w < 256 then some (decodeConfig (BitVec.ofNat 8 w))
    else none
  else if w < 2 ^ 14 then rulingClass (BitVec.ofNat 14 w)
  else none

end Sys2Proof
end

