-- ==== Sys2Proof/Config.lean ====
section
/-! DEFINITION. The parameters the spec leaves open (R8) and its free draws (R21, R204, R35), each an opaque constant: no proof can see its value, so a claim proved with it holds for every value. -/

namespace Sys2Proof.Config

/-! ## Draws -/

/-- `RAM_DRAW` (R21, D19): the byte that draw number `k` puts at `IMG[a]`, `a` below 6144. Free value, log 4. -/
opaque ramDraw (k a : Nat) : Byte

/-- `ACC_DRAW` (R204, D19): the "random" accumulator byte of draw number `k`. Free value, log 4. -/
opaque accDraw (k : Nat) : Byte

/-- The byte of `IMG[a]` between a construction (draw number `k`) and the first reset, which the spec leaves unspecified (R35). Free value, log 6. -/
opaque preResetImg (k a : Nat) : Byte

/-- `P0` between construction and the first reset (R35). Free value, log 6. -/
opaque preResetP0 (k : Nat) : BankIx
/-- `P1` between construction and the first reset (R35). Free value, log 6. -/
opaque preResetP1 (k : Nat) : BankIx
/-- `WE` between construction and the first reset (R35). Free value, log 6. -/
opaque preResetWE (k : Nat) : Bool
/-- `RP` between construction and the first reset (R35). Free value, log 6. -/
opaque preResetRP (k : Nat) : Bool
/-- `POC` between construction and the first reset (R35). Free value, log 6. -/
opaque preResetPOC (k : Nat) : Cycles
/-- `CB` between construction and the first reset (R35). Free value, log 6. -/
opaque preResetCB (k : Nat) : BitVec 5
/-- `DH` between construction and the first reset (R35). Free value, log 6. -/
opaque preResetDH (k : Nat) : Byte
/-- `NA` between construction and the first reset (R35). Free value, log 6. -/
opaque preResetNA (k : Nat) : Count
/-- `WP` between construction and the first reset (R35). Free value, log 6. -/
opaque preResetWP (k : Nat) : Bool

/-! ## The synthetic BIOS (R8, R200, D20, D33), log 7 -/

/-- `BIOS_STUB[o]`, the stub's byte at bank-3 offset `o`. -/
opaque biosStub (o : Nat) : Byte

/-- An unconstrained number, from which `stubLen` takes every value that R200 allows. -/
opaque stubLenRaw : Nat
/-- `STUB_LEN`: at most 2044 (R200), and at least 2 since two distinct patch offsets lie below it. -/
def stubLen : Nat := 2 + stubLenRaw % 2043

/-- An unconstrained number, from which `fastbootOffset` takes every value that R200 allows. -/
opaque fastbootOffsetRaw : Nat
/-- `FASTBOOT_OFFSET`, below `STUB_LEN` (R200). -/
def fastbootOffset : Nat := fastbootOffsetRaw % stubLen

/-- An unconstrained number, from which `accOffset` takes every value that R200 allows. -/
opaque accOffsetRaw : Nat
/-- `ACC_OFFSET`, below `STUB_LEN` and distinct from `FASTBOOT_OFFSET` (R200). -/
def accOffset : Nat := (fastbootOffset + 1 + accOffsetRaw % (stubLen - 1)) % stubLen

/-- `FASTBOOT_BYTE`, the fast-boot-skip flag the host chose (R203). -/
opaque fastbootByte : Byte

/-- `VECTOR_QUAD[k]`, `k` below 4 (R205). -/
opaque vectorQuad (k : Nat) : Byte

/-! ## The load-image store (R160, D21), log 8 -/

/-- `IMAGE_IN`, the dump that the machine of `State.reset` was constructed from. -/
opaque imageIn : List Byte

/-- `GAP_FILL`: the content of image byte `o` where the supplied image ends before 8192. -/
opaque gapFill (o : Nat) : Byte

/-- `DEFAULT_HEADER[o]`, `o` below 256. -/
opaque defaultHeader (o : Nat) : Byte

/-! ## The outside world -/

/-- The `C` presented with the reset that `State.reset` is the outcome of (R281), log 9. -/
opaque cyclesAtReset : Cycles

/-- What the system-bus byte at address `a` holds when `State.reset` begins (R34, R227), log 10. -/
opaque systemRam (a : Nat) : Byte

/-- The bus page granule is `BUS_PAGE = 2 ^ busPageShift` (R8, R220, D29), log 25. -/
opaque busPageShift : Nat

end Sys2Proof.Config
end

