-- ==== Sys2Proof/Machine/State.lean ====
section
/-! DEFINITION. The machine's state as plain data (spec/10_state.md), what the outside world presents and receives (R32, R33, R227), and the state right after reset (R281). -/

namespace Sys2Proof.Machine

/-! ## Outcomes that are no next state -/

/-- The faults of the block. There are none: "The block never traps, faults, halts, stalls or refuses an access it receives" (R250). Nothing raises one. -/
inductive Fault where
deriving DecidableEq, Repr

/-- The model's own refusals (R250: "The only refusals in this spec belong to the model"). Each is safe: the model stops where the block would receive nothing. -/
inductive Refusal where
  /-- An arm of `exec` without a meaning. No arm raises it. Safe. -/
  | notModelled (mnemonic : String)
  /-- Raised by every access class and by the step for an access with a[12] = 0, which the bus never delivers to the block (R51). Safe. -/
  | outsideWindow
  /-- Raised by every access class and by the step for an access before the first reset (R283). Safe. -/
  | beforeReset
  /-- Raised by the step for a host selector that R79 does not list (log 23). Safe. -/
  | noSuchOperation
deriving DecidableEq, Repr

/-! ## Memory -/

/-- The bytes of the bank array that a commit, a load or a restore has written since the last draw: pairs (index into `IMG`, byte), indices strictly rising and below 6144 (`Memory.wf`). An unlisted index reads as `imgBase` says, log 5. -/
abbrev Memory := List Host.Cell

/-- The three system-bus bytes the controller touches as master (R57, R227). They are not the block's (R34), log 10. -/
structure SysRam where
  /-- Address 0x0080: the load id in, the selector out. -/
  b80 : Byte
  /-- Address 0x00FE: entry point low byte. -/
  bFE : Byte
  /-- Address 0x00FF: entry point high byte. -/
  bFF : Byte
deriving DecidableEq, Repr

/-! ## Outputs -/

/-- The advisory diagnostics of R251. -/
inductive Diag where
  /-- Code 1 (R252): no unit has the id. -/
  | loadMissing (id : Byte)
  /-- Code 2 (R253): the header checksum of the unit is not 0x55. -/
  | headerChecksumInvalid (unit : Nat)
  /-- Code 3 (R254): the first page of the load whose checksum is not 0x55. -/
  | pageChecksumInvalid (unit page : Nat)
deriving DecidableEq, Repr

/-- The number of a diagnostic (R251). -/
def Diag.code : Diag → Nat
  | .loadMissing _ => 1
  | .headerChecksumInvalid _ => 2
  | .pageChecksumInvalid _ _ => 3

/-- What the block sends out during an operation. No rule of the block reads an event back (R32). -/
inductive Event where
  /-- `BankChanged` (R32, R147, R174). -/
  | bankChanged
  /-- An advisory diagnostic (R251). -/
  | diag (d : Diag)
  /-- A master read of the system bus and the byte it got (R227). -/
  | masterRead (a : BitVec 16) (v : Byte)
  /-- A master write of the system bus (R227). -/
  | masterWrite (a : BitVec 16) (v : Byte)
  /-- `setPageAccess(pageIndex, handler)` of `install` (R220). -/
  | setPageAccess (pageIndex : Nat)
deriving DecidableEq, Repr

/-- A save-state's elements (R229). -/
structure Saved where
  /-- `IMG[0..6143]`. -/
  ram : List Byte
  p0 : BankIx
  p1 : BankIx
  we : Bool
  rp : Bool
  poc : Cycles
  cb : BitVec 5
  dh : Byte
  na : Count
  wp : Bool
deriving DecidableEq, Repr

/-- What an operation returns to its caller. -/
inductive Ret where
  /-- No value: `poke` (R109, D25), `install`, `reset`, the rebase, construction. -/
  | nothing
  /-- The data byte of a `peek` (R108, R102). -/
  | byte (b : Byte)
  /-- `setBank` (R221), `patch` (R224). -/
  | bool (b : Bool)
  /-- `currentBank` (R222). -/
  | bank (b : BitVec 5)
  /-- `bankCount` (R223). -/
  | count (n : Nat)
  /-- `rawImage` (R225): `LOADS` and `S`. -/
  | image (loads : List Byte) (size : Nat)
  /-- A save-state (R229). -/
  | saved (s : Saved)
deriving DecidableEq, Repr

/-! ## Inputs -/

/-- The arguments that come with a call of a host operation (R79, R160, R220 to R226, R280). An operation reads those it has. -/
structure HostArgs where
  /-- The bus's cycle count, `C_old` for the rebase (R226). -/
  C : Cycles
  /-- The argument of `setBank` (R221). -/
  n : Nat
  /-- The address argument of `patch` (R224). -/
  addr : BitVec 16
  /-- The value argument of `patch` (R224). -/
  value : Byte
  /-- `IMAGE_IN` (R160). -/
  image : List Byte
deriving DecidableEq, Repr

/-- One operation as an agent presents it (R6, R33). -/
inductive Request where
  /-- A bus access: kind, bus address, the data byte of a `poke`, which the block ignores (R73), `D` and `C` (R33). -/
  | access (kind : Kind) (addr : BitVec 16) (data : Byte) (D : Count) (C : Cycles)
  /-- A host operation by its selector (R79). -/
  | host (selector : BitVec 4) (args : HostArgs)
  /-- Take a save-state (R229). -/
  | save
  /-- Restore a save-state (R229). -/
  | restore (saved : Saved)
  /-- The CPU stores a byte in system RAM, outside the window: the trace line `SYS[$aa]=$vv` (R82, R228), log 10. -/
  | systemStore (addr : BitVec 16) (value : Byte)
deriving DecidableEq, Repr

/-- The values presented with the operation in progress, log 12. -/
structure Inputs where
  /-- The distinct-access count (R33). -/
  D : Count
  /-- The bus-cycle count (R33, R226). -/
  C : Cycles
  /-- The argument of `setBank` (R221). -/
  n : Nat
  /-- `IMAGE_IN` (R160). -/
  image : List Byte
deriving DecidableEq, Repr

/-- The loop variables of a load (R163): unit `i`, page `j`, `seen`. Idle between steps, log 14. -/
structure LoadCursor where
  unit : Nat
  page : Nat
  seen : Bool
deriving DecidableEq, Repr

/-- The cursor of no load. -/
def LoadCursor.idle : LoadCursor := ⟨0, 0, false⟩

/-! ## State -/

/-- The state of the block, and with it the inputs and outputs of the operation in progress. -/
structure State where
  /-- The bank array's written bytes (R20), log 5. -/
  img : Memory
  /-- Which draw the unwritten bytes of the bank array are (R21, R204), log 4. -/
  epoch : Nat
  /-- A reset has run since construction (R35, R283). -/
  ready : Bool
  /-- `install` has claimed the window since construction (R220, R284), log 24. -/
  installed : Bool
  /-- The bank backing the page-0 window (R23). -/
  p0 : BankIx
  /-- The bank backing the page-1 window (R23). -/
  p1 : BankIx
  /-- Write enable (R24). -/
  we : Bool
  /-- ROM power (R25). -/
  rp : Bool
  /-- Power-on cycle (R26). -/
  poc : Cycles
  /-- Current bank (R27). -/
  cb : BitVec 5
  /-- Data-hold register (R28). -/
  dh : Byte
  /-- Armed-at count (R29). -/
  na : Count
  /-- Write pending (R30). -/
  wp : Bool
  /-- The load-image store `LOADS`, `S` its length (R31). -/
  loads : List Byte
  /-- The system-bus scratch bytes (R227). -/
  sys : SysRam
  /-- The operations presented and not yet performed, oldest first (R63), log 2. -/
  pending : List Request
  /-- What was presented with the operation in progress (R33). -/
  now : Inputs
  /-- The load engine's loop variables (R163). -/
  cur : LoadCursor
  /-- What the operation returned (R11). -/
  ret : Ret
  /-- What the operation emitted, oldest first (R32). -/
  events : List Event
deriving DecidableEq, Repr

/-- The outcome of a step or of one instruction. -/
abbrev Result := Host.Outcome State Fault Refusal

/-! ## Construction and reset -/

/-- The smallest store: one load unit (R160). -/
def minStore : Nat := 8448

/-- `Construct(IMAGE_IN)` (R160): the supplied bytes; below one load unit, gap fill up to 8192 and the default header from 8192 on. -/
def constructStore (image : List Byte) : List Byte :=
  if image.length < minStore then
    image.take 8192 ++ (List.range' image.length (8192 - image.length)).map Config.gapFill
      ++ (List.range 256).map Config.defaultHeader
  else image

/-- The machine right after reset, as R281 lists it, constructed and installed before (R284). The unlisted bank array reads as the draw and the injected BIOS; `C` of the reset, `IMAGE_IN` and the system bytes are parameters (log 8, 9, 10). -/
def State.reset : State where
  img := []
  epoch := 0
  ready := true
  installed := true
  p0 := 2#2
  p1 := 3#2
  we := false
  rp := true
  poc := Config.cyclesAtReset
  cb := 0#5
  dh := 0#8
  na := 0#32
  wp := false
  loads := constructStore Config.imageIn
  sys := ⟨Config.systemRam 0x0080, Config.systemRam 0x00FE, Config.systemRam 0x00FF⟩
  pending := []
  now := ⟨0#32, Config.cyclesAtReset, 0, []⟩
  cur := LoadCursor.idle
  ret := .nothing
  events := [.bankChanged]

end Sys2Proof.Machine
end

