-- ==== Sys2Proof/Machine/Operands.lean ====
section
/-! DEFINITION. Operand forms: the ROM/RAM multiplexer (R52, R53), the operands of an access (R73), the paging table (R141), and the fields of the load-image store (R76, R77, R162). -/

namespace Sys2Proof.Machine

/-! ## The multiplexer -/

/-- The bank backing the sub-window of `a`: `P0` where a[11] = 0, else `P1` (R52). -/
def windowBank (a : WindowAddr) (s : State) : BankIx := if a.getLsbD 11 then s.p1 else s.p0

/-- `resolve(a)` (R53): the bank index and the byte offset a[10:0]. -/
def resolve (a : WindowAddr) (s : State) : BankIx × BitVec 11 := (windowBank a s, a.setWidth 11)

/-- The index into `IMG` of a bank and an offset, `b*2048 + o` (R20, R53). -/
def imgIndex (b : BankIx) (o : BitVec 11) : Nat := b.toNat * 2048 + o.toNat

/-- The index into `IMG` that window address `a` resolves to (R53). -/
def targetIndex (a : WindowAddr) (s : State) : Nat := imgIndex (resolve a s).1 (resolve a s).2

/-! ## Access operands -/

/-- The BIOS load trigger (R7, R102). -/
def loadTrigger : WindowAddr := 0x1850#13

/-- The configuration hotspot (R7, R105). -/
def configHotspot : WindowAddr := 0x1FF8#13

/-- The window address of an arming access whose low byte is `low` (R104). -/
def armAddr (low : Byte) : WindowAddr := 0b10000#5 ++ low

/-! ## Paging -/

/-- MODE_TABLE (R141): the banks `P0` and `P1` of a paging mode. -/
def modeTable (m : BitVec 3) : BankIx × BankIx :=
  match m.toNat with
  | 0 => (2#2, 3#2)
  | 1 => (0#2, 3#2)
  | 2 => (2#2, 0#2)
  | 3 => (0#2, 2#2)
  | 4 => (2#2, 3#2)
  | 5 => (1#2, 3#2)
  | 6 => (2#2, 1#2)
  | _ => (1#2, 2#2)

/-! ## The load-image store -/

/-- The size of a load unit (R7, R76). -/
def unitSize : Nat := 8448

/-- `N = floor(S / 8448)` (R161). -/
def unitCount (loads : List Byte) : Nat := loads.length / unitSize

/-- The 256 header bytes of unit `i`, from `Hbase(i) = i*8448 + 8192` on (R162). -/
def header (loads : List Byte) (i : Nat) : List Byte := (loads.drop (i * unitSize + 8192)).take 256

/-- Header byte `k` of unit `i` (R77). Always in range for a unit of the store and `k` below 256. -/
def headerByte (loads : List Byte) (i k : Nat) : Byte := (header loads i).getD k 0#8

/-- The load number of unit `i`: header byte 5 (R162). -/
def loadNumber (loads : List Byte) (i : Nat) : Byte := headerByte loads i 5

/-- `cnt = min(H[3], 32)` (R167). -/
def pageCount (loads : List Byte) (i : Nat) : Nat := min (headerByte loads i 3).toNat 32

/-- The descriptor of page `j` of unit `i`: header byte 16 + j (R77, R168). -/
def pageDescriptor (loads : List Byte) (i j : Nat) : Byte := headerByte loads i (16 + j)

/-- The checksum complement of page `j` of unit `i`: header byte 64 + j (R77, R170). -/
def pageComplement (loads : List Byte) (i j : Nat) : Byte := headerByte loads i (64 + j)

/-- The 256 source bytes of page `j` of unit `i` (R169), log 17. -/
def pageSource (loads : List Byte) (i j : Nat) : List Byte := (loads.drop (i * unitSize + j * 256)).take 256

/-- The index into `IMG` where a descriptor's page begins: `bank*2048 + page*256` (R56, R163). -/
def pageDest (d : Byte) : Nat := (descBank d).toNat * 2048 + (descPage d).toNat * 256

/-- `sum8(bytes)`: the sum modulo 256 (R10). -/
def sum8 : List Byte → Byte
  | [] => 0#8
  | b :: bs => b + sum8 bs

/-- The checksum target (R7). -/
def checksumTarget : Byte := 0x55#8

/-- The first unit in storage order whose load number is `id` (R164). -/
def findUnit (loads : List Byte) (id : Byte) : Option Nat :=
  (List.range (unitCount loads)).find? fun i => decide (loadNumber loads i = id)

/-! ## Bus pages -/

/-- The bus pages of size `2 ^ shift` that cover the window 0x1000 to 0x1FFF (R220). -/
def windowPages (shift : Nat) : List Nat :=
  List.range' (0x1000 >>> shift) ((0x1FFF >>> shift) - (0x1000 >>> shift) + 1)

end Sys2Proof.Machine
end

