-- ==== Sys2Proof/Machine/Flags.lean ====
section
/-! DEFINITION. The block's flags `WE`, `RP`, `WP` (R24, R25, R30): the conditions of the write-timing gate (R103, R104, R106), the checksum tests (R166, R170), and the state conditions of the decode classes (R72). -/

namespace Sys2Proof.Machine

/-- `NA +32 5`, modulo 2^32 with no wrap correction (R10, R103). -/
def gateTarget (s : State) : Count := s.na + 5#32

/-- The write has expired: `WP and D >u (NA +32 5)` (R103). -/
def gateExpired (s : State) : Bool := s.wp && (gateTarget s).ult s.now.D

/-- The gate may arm: `not WE or not WP` (R104). -/
def mayArm (s : State) : Bool := !s.we || !s.wp

/-- The write is due: `WE and WP and D == (NA +32 5)` (R106). -/
def commitDue (s : State) : Bool := s.we && s.wp && decide (s.now.D = gateTarget s)

/-- The header checksum of unit `i` is valid: `sum8(H[0..7]) == 0x55` (R166). -/
def headerValid (loads : List Byte) (i : Nat) : Bool :=
  decide (sum8 ((header loads i).take 8) = checksumTarget)

/-- The checksum of page `j` of unit `i` is valid under descriptor `d`: `sum8(src, d, H[64 + j]) == 0x55` (R170). -/
def pageValid (loads : List Byte) (i j : Nat) (d : Byte) : Bool :=
  decide (sum8 (pageSource loads i j ++ [d, pageComplement loads i j]) = checksumTarget)

/-- The "state condition" column of R72: whether an access that has come to this class takes it. Classes of the other formats are not part of an access. -/
def classTaken (i : Instr) (s : State) : Bool :=
  match i with
  | .accLoad => decide (s.p1 = 3#2)
  | .accExpire _ _ => gateExpired s
  | .accArm _ _ => mayArm s
  | .accConfig _ => true
  | .accCommit _ _ => commitDue s
  | .peekData _ => true
  | .pokeEnd _ => true
  | _ => false

/-- Classes 3, 4 and 5, of which an access takes at most one (R72). -/
def exclusiveClass (i : Instr) : Bool :=
  match i with
  | .accArm _ _ => true
  | .accConfig _ => true
  | .accCommit _ _ => true
  | _ => false

/-- Class 1, which ends the access (R72, R102). -/
def endsAccess (i : Instr) : Bool :=
  match i with
  | .accLoad => true
  | _ => false

end Sys2Proof.Machine
end

