-- ==== Sys2Proof/Machine/Ops.lean ====
section
/-! DEFINITION. The shared operations over the state: the bank array, the system bus, output events, ApplyConfig (R140), the load engine (R163), BIOS injection and reset (R200, R280), construction (R160), save and restore (R229). The block takes no exception and returns from none (R250, R259), so there is no such operation. -/

namespace Sys2Proof.Machine

/-! ## Outputs -/

/-- `report Diag(…)`, `emit BankChanged` and the other output events (R11, R32). -/
def emit (e : Event) (s : State) : State := { s with events := s.events ++ [e] }

/-- `return v` (R11). -/
def returning (r : Ret) (s : State) : State := { s with ret := r }

/-! ## The bank array -/

/-- The synthetic ROM byte at bank-3 offset `o` as InjectBios leaves it under draw `k` (R200): the vectors over the patches over the stub over the fill, a later write winning (R206). -/
def biosByte (k o : Nat) : Byte :=
  if 2044 ≤ o then Config.vectorQuad (o - 2044)
  else if o = Config.accOffset then Config.accDraw k
  else if o = Config.fastbootOffset then Config.fastbootByte
  else if o < Config.stubLen then Config.biosStub o
  else 0x02#8

/-- What an unlisted index of `IMG` reads as: after a reset, the draw in RAM and the injected BIOS in bank 3 (R281); before the first reset, an unspecified byte (R35). Log 4, 5, 6. -/
def imgBase (ready : Bool) (k a : Nat) : Byte :=
  if ready then (if a < 6144 then Config.ramDraw k a else biosByte k (a - 6144))
  else Config.preResetImg k a

/-- The listed byte at an index, if there is one. -/
def Memory.lookup : Memory → Nat → Option Byte
  | [], _ => none
  | (a, v) :: m, i => if a = i then some v else Memory.lookup m i

/-- The memory with byte `v` listed at index `i`, in rising order. -/
def Memory.insert (i : Nat) (v : Byte) : Memory → Memory
  | [] => [(i, v)]
  | (a, w) :: m =>
    if i < a then (i, v) :: (a, w) :: m
    else if i = a then (i, v) :: m
    else (a, w) :: Memory.insert i v m

/-- The list lies at `lo` or above, strictly rising and below 6144. -/
def Memory.risingFrom : Nat → Memory → Bool
  | _, [] => true
  | lo, (a, _) :: m => decide (lo ≤ a) && decide (a < 6144) && Memory.risingFrom (a + 1) m

/-- The canonical form: indices strictly rising, and every one in RAM, so that bank 3 is never listed (R22). Log 5. -/
def Memory.wf (m : Memory) : Bool := Memory.risingFrom 0 m

/-- `IMG[a]` (R11). -/
def imgByte (s : State) (a : Nat) : Byte := (Memory.lookup s.img a).getD (imgBase s.ready s.epoch a)

/-- `IMG[a] <- v` (R11). -/
def writeImg (a : Nat) (v : Byte) (s : State) : State := { s with img := Memory.insert a v s.img }

/-- `IMG[a ..] <- bytes`, byte by byte (R59, R163). -/
def writeBytes (a : Nat) : List Byte → State → State
  | [], s => s
  | v :: vs, s => writeBytes (a + 1) vs (writeImg a v s)

/-! ## The system bus -/

/-- The system byte at an address: the three scratch bytes are held (R57). -/
def SysRam.store (r : SysRam) (a : BitVec 16) (v : Byte) : SysRam :=
  if a = 0x0080#16 then { r with b80 := v }
  else if a = 0x00FE#16 then { r with bFE := v }
  else if a = 0x00FF#16 then { r with bFF := v }
  else r

/-- `SysWrite(a, v)` (R11, R227): a master write, which takes no part in the gate (D26). -/
def sysWrite (a : BitVec 16) (v : Byte) (s : State) : State :=
  emit (.masterWrite a v) { s with sys := s.sys.store a v }

/-! ## The bank-configuration register -/

/-- `ApplyConfig(v, C)` (R140 to R147). -/
def applyConfig (v : Byte) (C : Cycles) (s : State) : State :=
  emit .bankChanged
    { s with
      cb := v.setWidth 5
      rp := !cfgP v
      poc := if cfgP v then s.poc else C
      we := cfgW v
      p0 := (modeTable (cfgMode v)).1
      p1 := (modeTable (cfgMode v)).2 }

/-! ## Accesses -/

/-- What every access class begins with: an access with a[12] = 0 and an access before the first reset are refused (R51, R283); otherwise the class has its effect (R250). -/
def onAccess (a : WindowAddr) (effect : State → State) (s : State) : Result :=
  if inWindow a then
    if s.ready then .next (effect s) else .refused .beforeReset
  else .refused .outsideWindow

/-- `return IMG[b*2048 + o]` for the resolved address (R102, R108). -/
def returnData (a : WindowAddr) (s : State) : State := returning (.byte (imgByte s (targetIndex a s))) s

/-- The write of a commit: `DH` at the resolved target, dropped where the target is bank 3 (R106, R107). -/
def commitWrite (a : WindowAddr) (s : State) : State :=
  if (resolve a s).1 = 3#2 then s else writeImg (targetIndex a s) s.dh s

/-! ## The load engine -/

/-- The loop body of R163 for the page at the cursor, under descriptor `d`: the checksum, whose first mismatch of a load is reported (R170, R171), then the copy, unless the bank is 3 (R172). -/
def processPage (d : Byte) (s : State) : State :=
  let i := s.cur.unit
  let j := s.cur.page
  let bad := !s.cur.seen && !pageValid s.loads i j d
  let s1 := if bad then emit (.diag (.pageChecksumInvalid i j)) s else s
  let s2 := if descBank d = 3#2 then s1 else writeBytes (pageDest d) (pageSource s.loads i j) s1
  { s2 with cur := ⟨i, j + 1, s.cur.seen || bad⟩ }

/-- The page loop of R163: `k` more pages from the cursor on, in page order. -/
def runPages : Nat → State → State
  | 0, s => s
  | k + 1, s => runPages k (processPage (pageDescriptor s.loads s.cur.unit s.cur.page) s)

/-- The load of the unit that was found (R163): header check, pages, hand-off bytes (R173), `BankChanged` (R174). -/
def loadUnit (i : Nat) (s : State) : State :=
  let s1 := if headerValid s.loads i then s else emit (.diag (.headerChecksumInvalid i)) s
  let s2 := runPages (pageCount s.loads i) { s1 with cur := ⟨i, 0, false⟩ }
  let s3 := sysWrite 0x00FE#16 (headerByte s.loads i 0) { s2 with cur := LoadCursor.idle }
  let s4 := sysWrite 0x00FF#16 (headerByte s.loads i 1) s3
  let s5 := sysWrite 0x0080#16 (headerByte s.loads i 2) s4
  emit .bankChanged s5

/-- `LoadIntoRAM(id)` (R163): the first unit with the id, or `Diag(LOAD_MISSING)` and nothing else (R165). -/
def loadIntoRAM (id : Byte) (s : State) : State :=
  match findUnit s.loads id with
  | some i => loadUnit i s
  | none => emit (.diag (.loadMissing id)) s

/-- Step 1 of R100 once the trigger is met: the master read of 0x0080, the load, the bank-3 byte (R102). -/
def triggerLoad (s : State) : State :=
  returnData loadTrigger (loadIntoRAM s.sys.b80 (emit (.masterRead 0x0080#16 s.sys.b80) s))

/-! ## Reset, construction, installation -/

/-- `IMG[0..6143] <- RAM_DRAW; InjectBios()` (R280, R200): a fresh draw, nothing listed, bank 3 injected. -/
def redrawImage (s : State) : State := { s with img := [], epoch := s.epoch + 1, ready := true }

/-- `Reset(C)` (R280). -/
def resetBlock (C : Cycles) (s : State) : State :=
  applyConfig 0#8 C { redrawImage s with poc := C, dh := 0#8, na := 0#32, wp := false }

/-- Construction from `IMAGE_IN` (R160): the store is built, and everything else of the block is unspecified until the first reset (R35), log 6, 27. -/
def constructBlock (image : List Byte) (s : State) : State :=
  let k := s.epoch + 1
  { s with
    img := []
    epoch := k
    ready := false
    installed := false
    p0 := Config.preResetP0 k
    p1 := Config.preResetP1 k
    we := Config.preResetWE k
    rp := Config.preResetRP k
    poc := Config.preResetPOC k
    cb := Config.preResetCB k
    dh := Config.preResetDH k
    na := Config.preResetNA k
    wp := Config.preResetWP k
    loads := constructStore image }

/-- `setPageAccess` for every bus page of the window (R220 effect (1)). -/
def claimWindow (s : State) : State :=
  { s with
    installed := true
    events := s.events ++ (windowPages Config.busPageShift).map Event.setPageAccess }

/-! ## Save-states -/

/-- The elements of a save-state (R229). -/
def saveState (s : State) : Saved where
  ram := (List.range 6144).map (imgByte s)
  p0 := s.p0
  p1 := s.p1
  we := s.we
  rp := s.rp
  poc := s.poc
  cb := s.cb
  dh := s.dh
  na := s.na
  wp := s.wp

/-- Restore: writes each saved element and emits `BankChanged`; bank 3 and `LOADS` stay (R229). -/
def restoreState (v : Saved) (s : State) : State :=
  emit .bankChanged
    { writeBytes 0 (v.ram.take 6144) s with
      p0 := v.p0
      p1 := v.p1
      we := v.we
      rp := v.rp
      poc := v.poc
      cb := v.cb
      dh := v.dh
      na := v.na
      wp := v.wp }

/-! ## Presenting an operation -/

/-- The inputs that come with an operation (R33); those it does not present keep their last value, which nothing reads. -/
def presentedInputs (r : Request) (old : Inputs) : Inputs :=
  match r with
  | .access _ _ _ D C => { old with D := D, C := C }
  | .host _ args => { old with C := args.C, n := args.n, image := args.image }
  | .save => old
  | .restore _ => old
  | .systemStore _ _ => old

/-- The state in which an operation begins: its inputs presented, no output yet, `rest` still to come. -/
def present (r : Request) (rest : List Request) (s : State) : State :=
  { s with pending := rest, now := presentedInputs r s.now, ret := .nothing, events := [] }

/-- Run `f` on the next state; a fault or a refusal stands. -/
def andThen (o : Result) (f : State → Result) : Result :=
  match o with
  | .next s => f s
  | .fault e => .fault e
  | .refused e => .refused e

end Sys2Proof.Machine
end

