-- ==== Sys2Proof/Machine/Access.lean ====
section
/-! DEFINITION. The meanings of the access classes ACC.*, PEEK.DATA and POKE.END (spec/40_bus_access.md). Each is its rule's own pseudocode, guard included: a class whose condition does not hold changes nothing. -/

namespace Sys2Proof.Machine

/-- ACC.LOAD (R102): with `P1 == 3`, the master read, the load and the bank-3 byte. -/
def execAccLoad (s : State) : Result :=
  onAccess loadTrigger (fun s => if s.p1 = 3#2 then triggerLoad s else s) s

/-- ACC.EXPIRE (R103): `if WP and D >u (NA +32 5): WP <- false`. -/
def execAccExpire (_kind : Kind) (a : WindowAddr) (s : State) : Result :=
  onAccess a (fun s => if gateExpired s then { s with wp := false } else s) s

/-- ACC.ARM (R104): `DH <- a[7:0]; NA <- D; WP <- true` where the gate may arm. -/
def execAccArm (_kind : Kind) (low : Byte) (s : State) : Result :=
  onAccess (armAddr low) (fun s => if mayArm s then { s with dh := low, na := s.now.D, wp := true } else s) s

/-- ACC.CONFIG (R105): `WP <- false; ApplyConfig(DH, C)`. -/
def execAccConfig (_kind : Kind) (s : State) : Result :=
  onAccess configHotspot (fun s => applyConfig s.dh s.now.C { s with wp := false }) s

/-- ACC.COMMIT (R106, R107): where the write is due, `DH` to the target unless it is in bank 3, and `WP <- false`. -/
def execAccCommit (_kind : Kind) (a : WindowAddr) (s : State) : Result :=
  onAccess a (fun s => if commitDue s then { commitWrite a s with wp := false } else s) s

/-- PEEK.DATA (R108): the byte at the resolved address, as steps 2 to 5 left the state. -/
def execPeekData (a : WindowAddr) (s : State) : Result := onAccess a (returnData a) s

/-- POKE.END (R109): nothing is returned. -/
def execPokeEnd (a : WindowAddr) (s : State) : Result := onAccess a (returning .nothing) s

end Sys2Proof.Machine
end

