-- ==== Sys2Proof/Machine/ConfigByte.lean ====
section
/-! DEFINITION. The meanings of the configuration byte's rows CFG.MODE0 to CFG.MODE7 (R140, R141): ApplyConfig of that byte with the `C` presented. -/

namespace Sys2Proof.Machine

/-- CFG.MODE0 (R141): banks 2 and 3. -/
def execCfgMode0 (ignored : BitVec 3) (w p : Bool) (s : State) : Result :=
  .next (applyConfig (configByte ignored 0#3 w p) s.now.C s)

/-- CFG.MODE1 (R141): banks 0 and 3. -/
def execCfgMode1 (ignored : BitVec 3) (w p : Bool) (s : State) : Result :=
  .next (applyConfig (configByte ignored 1#3 w p) s.now.C s)

/-- CFG.MODE2 (R141): banks 2 and 0. -/
def execCfgMode2 (ignored : BitVec 3) (w p : Bool) (s : State) : Result :=
  .next (applyConfig (configByte ignored 2#3 w p) s.now.C s)

/-- CFG.MODE3 (R141): banks 0 and 2. -/
def execCfgMode3 (ignored : BitVec 3) (w p : Bool) (s : State) : Result :=
  .next (applyConfig (configByte ignored 3#3 w p) s.now.C s)

/-- CFG.MODE4 (R141): banks 2 and 3, the duplicate of mode 0. -/
def execCfgMode4 (ignored : BitVec 3) (w p : Bool) (s : State) : Result :=
  .next (applyConfig (configByte ignored 4#3 w p) s.now.C s)

/-- CFG.MODE5 (R141): banks 1 and 3. -/
def execCfgMode5 (ignored : BitVec 3) (w p : Bool) (s : State) : Result :=
  .next (applyConfig (configByte ignored 5#3 w p) s.now.C s)

/-- CFG.MODE6 (R141): banks 2 and 1. -/
def execCfgMode6 (ignored : BitVec 3) (w p : Bool) (s : State) : Result :=
  .next (applyConfig (configByte ignored 6#3 w p) s.now.C s)

/-- CFG.MODE7 (R141): banks 1 and 2. -/
def execCfgMode7 (ignored : BitVec 3) (w p : Bool) (s : State) : Result :=
  .next (applyConfig (configByte ignored 7#3 w p) s.now.C s)

end Sys2Proof.Machine
end

