-- ==== Sys2Proof/Machine/HostOps.lean ====
section
/-! DEFINITION. The meanings of the host operations HOST.* (spec/44_host_interface.md, R160, R280). Their arguments are those presented with the call (`State.now`). -/

namespace Sys2Proof.Machine

/-- HOST.INSTALL (R220): claim the window, then `ApplyConfig(0, C)`. -/
def execHostInstall (s : State) : Result :=
  .next (returning .nothing (applyConfig 0#8 s.now.C (claimWindow s)))

/-- HOST.RESET (R280). -/
def execHostReset (s : State) : Result := .next (returning .nothing (resetBlock s.now.C s))

/-- HOST.SETBANK (R221): `ApplyConfig(n[7:0], C)`, then true; `DH`, `NA` and `WP` stay. -/
def execHostSetbank (s : State) : Result :=
  .next (returning (.bool true) (applyConfig (BitVec.ofNat 8 s.now.n) s.now.C s))

/-- HOST.CURRENTBANK (R222): `CB`. -/
def execHostCurrentbank (s : State) : Result := .next (returning (.bank s.cb) s)

/-- HOST.BANKCOUNT (R223): 32. -/
def execHostBankcount (s : State) : Result := .next (returning (.count 32) s)

/-- HOST.PATCH (R224): false, and nothing changes. -/
def execHostPatch (s : State) : Result := .next (returning (.bool false) s)

/-- HOST.RAWIMAGE (R225): the pair (`LOADS`, `S`). -/
def execHostRawimage (s : State) : Result := .next (returning (.image s.loads s.loads.length) s)

/-- HOST.ONSYSTEMCYCLESRESET (R226): `POC <- POC -64 C_old`. -/
def execHostOnsystemcyclesreset (s : State) : Result :=
  .next (returning .nothing { s with poc := s.poc - s.now.C })

/-- HOST.CONSTRUCT (R160). -/
def execHostConstruct (s : State) : Result :=
  .next (returning .nothing (constructBlock s.now.image s))

end Sys2Proof.Machine
end

