-- ==== Sys2Proof/Machine/PageDescriptor.lean ====
section
/-! DEFINITION. The meanings of the page descriptor's rows DESC.BANK0 to DESC.ROM (R163, R168 to R172): the load engine's loop body for the page at the cursor, under that descriptor. -/

namespace Sys2Proof.Machine

/-- DESC.BANK0 (R168): the page is checked and copied to RAM bank 0. -/
def execDescBank0 (ignored page : BitVec 3) (s : State) : Result :=
  .next (processPage (descriptorByte ignored page 0#2) s)

/-- DESC.BANK1 (R168): the page is checked and copied to RAM bank 1. -/
def execDescBank1 (ignored page : BitVec 3) (s : State) : Result :=
  .next (processPage (descriptorByte ignored page 1#2) s)

/-- DESC.BANK2 (R168): the page is checked and copied to RAM bank 2. -/
def execDescBank2 (ignored page : BitVec 3) (s : State) : Result :=
  .next (processPage (descriptorByte ignored page 2#2) s)

/-- DESC.ROM (R172): the page is checked and not copied. -/
def execDescRom (ignored page : BitVec 3) (s : State) : Result :=
  .next (processPage (descriptorByte ignored page 3#2) s)

end Sys2Proof.Machine
end

