-- ==== Sys2Proof/Machine/Dispatch.lean ====
section
/-! DEFINITION. One arm per row of spec/opcode_table.json. -/

namespace Sys2Proof.Machine

def exec (i : Instr) (s : State) : Host.Outcome State Fault Refusal :=
  match i with
  | .accLoad => Sys2Proof.Machine.execAccLoad s
  | .accExpire k a => Sys2Proof.Machine.execAccExpire k a s
  | .accArm k low => Sys2Proof.Machine.execAccArm k low s
  | .accConfig k => Sys2Proof.Machine.execAccConfig k s
  | .accCommit k a => Sys2Proof.Machine.execAccCommit k a s
  | .peekData a => Sys2Proof.Machine.execPeekData a s
  | .pokeEnd a => Sys2Proof.Machine.execPokeEnd a s
  | .cfgMode0 g w p => Sys2Proof.Machine.execCfgMode0 g w p s
  | .cfgMode1 g w p => Sys2Proof.Machine.execCfgMode1 g w p s
  | .cfgMode2 g w p => Sys2Proof.Machine.execCfgMode2 g w p s
  | .cfgMode3 g w p => Sys2Proof.Machine.execCfgMode3 g w p s
  | .cfgMode4 g w p => Sys2Proof.Machine.execCfgMode4 g w p s
  | .cfgMode5 g w p => Sys2Proof.Machine.execCfgMode5 g w p s
  | .cfgMode6 g w p => Sys2Proof.Machine.execCfgMode6 g w p s
  | .cfgMode7 g w p => Sys2Proof.Machine.execCfgMode7 g w p s
  | .descBank0 g q => Sys2Proof.Machine.execDescBank0 g q s
  | .descBank1 g q => Sys2Proof.Machine.execDescBank1 g q s
  | .descBank2 g q => Sys2Proof.Machine.execDescBank2 g q s
  | .descRom g q => Sys2Proof.Machine.execDescRom g q s
  | .hostInstall => Sys2Proof.Machine.execHostInstall s
  | .hostReset => Sys2Proof.Machine.execHostReset s
  | .hostSetbank => Sys2Proof.Machine.execHostSetbank s
  | .hostCurrentbank => Sys2Proof.Machine.execHostCurrentbank s
  | .hostBankcount => Sys2Proof.Machine.execHostBankcount s
  | .hostPatch => Sys2Proof.Machine.execHostPatch s
  | .hostRawimage => Sys2Proof.Machine.execHostRawimage s
  | .hostOnsystemcyclesreset => Sys2Proof.Machine.execHostOnsystemcyclesreset s
  | .hostConstruct => Sys2Proof.Machine.execHostConstruct s

end Sys2Proof.Machine
end

