-- ==== Sys2Proof/Machine/Sequencer.lean ====
section
/-! DEFINITION. How one presented operation runs its instructions (R12, R70, R72, R100): the classes of an access in priority order, the one instruction of a host operation, and the operations that have no row. -/

namespace Sys2Proof.Machine

/-- The classes of an access, in priority order (R72): a class is run where its state condition holds; of classes 3 to 5 at most one is run (`done` says one was); class 1 ends the access. -/
def runClasses : List Instr → Bool → State → Result
  | [], _, s => .next s
  | i :: is, done, s =>
    if classTaken i s && !(done && exclusiveClass i) then
      andThen (exec i s) fun t =>
        if endsAccess i then .next t else runClasses is (done || exclusiveClass i) t
    else runClasses is done s

/-- One bus access (R100): refused outside the window (R51) and before the first reset (R283), else its classes. -/
def runAccess (kind : Kind) (a : WindowAddr) (s : State) : Result :=
  match decodeAccess (accessWord kind a) with
  | .ok classes => if s.ready then runClasses classes false s else .refused .beforeReset
  | .error _ => .refused .outsideWindow

/-- One host operation by its selector (R79). -/
def runHost (selector : BitVec 4) (s : State) : Result :=
  match decodeHost selector with
  | .ok i => exec i s
  | .error _ => .refused .noSuchOperation

/-- One presented operation, from the state in which it begins (`present`). -/
def perform (r : Request) (s : State) : Result :=
  match r with
  | .access kind addr _ _ _ => runAccess kind (windowAddr addr) s
  | .host selector _ => runHost selector s
  | .save => .next (returning (.saved (saveState s)) s)
  | .restore saved => .next (restoreState saved s)
  | .systemStore addr value => .next { s with sys := s.sys.store addr value }

/-- The request that puts table word `w` at the front (log 3): a host selector; a configuration byte as the `n` of `setBank`, which hands it to the decoder (R221); or a bus access with `D` and `C` zero. -/
def wordRequest (nbits w : Nat) : Request :=
  if nbits ≤ 8 then
    match (if w < 16 then decodeHost (BitVec.ofNat 4 w) else .error .noSuchOperation) with
    | .ok _ => .host (BitVec.ofNat 4 w) ⟨0#64, 0, 0#16, 0#8, []⟩
    | .error _ => .host 2#4 ⟨0#64, w, 0#16, 0#8, []⟩
  else .access (wordKind (BitVec.ofNat 14 w)) (BitVec.ofNat 16 (w % 2 ^ 13)) 0#8 0#32 0#64

end Sys2Proof.Machine
end

