-- ==== Sys2Proof/Machine/Step.lean ====
section
/-! DEFINITION. One step: the oldest presented operation, whole (R12, R63). -/

namespace Sys2Proof.Machine

/-- One atomic step (R12). With nothing presented nothing happens, and nothing stops (R250), log 2. -/
def step (s : State) : Host.Outcome State Fault Refusal :=
  match s.pending with
  | [] => .next s
  | r :: rest => perform r (present r rest s)

/-- The state with table word `w` presented as the next operation (log 3). -/
def State.withFetchWord (s : State) (nbits w : Nat) : State :=
  { s with pending := wordRequest nbits w :: s.pending }

end Sys2Proof.Machine
end

