-- ==== Sys2Proof/Safety.lean ====
section
/-! DEFINITION. The terms claims are made in: the boot order (R284), the invariant of a run, and rule R100's pseudocode written out as one flat function, to compare the sequencer with. -/

namespace Sys2Proof.Machine

/-- The machine has come through the boot order of R284: constructed, installed, reset. -/
def Booted (s : State) : Prop := s.installed = true ∧ s.ready = true

/-- `P0`, `P1`, `WE` and `RP` are the decoding of `CB` (R23, R27, R140): the registers that ApplyConfig always writes together. -/
def ConfigCoherent (p0 p1 : BankIx) (we rp : Bool) (cb : BitVec 5) : Prop :=
  (p0, p1) = modeTable (cb.extractLsb' 2 3) ∧ we = cb.getLsbD 1 ∧ rp = !cb.getLsbD 0

/-- A save-state that some run of the block can have produced: all 6144 RAM bytes, and a coherent configuration (R229). -/
def Saved.Legal (v : Saved) : Prop :=
  v.ram.length = 6144 ∧ ConfigCoherent v.p0 v.p1 v.we v.rp v.cb

/-- What holds between steps. -/
structure Inv (s : State) : Prop where
  /-- The bank array's list is canonical and lists no byte of bank 3 (R22). -/
  wf : Memory.wf s.img = true
  /-- The store holds at least one load unit (R31, R160). -/
  store : minStore ≤ s.loads.length
  /-- After a reset the configuration registers are the decoding of `CB`; before it they are unspecified (R35). -/
  coherent : s.ready = true → ConfigCoherent s.p0 s.p1 s.we s.rp s.cb
  /-- No load is in progress (R12). -/
  idle : s.cur = LoadCursor.idle
  /-- Only save-states of the block are restored (R228: what the host does outside its table is not modelled). -/
  saves : ∀ v, Request.restore v ∈ s.pending → v.Legal

/-- `Access(kind, addr, D, C)` of R100, step by step, for a window address `a`. -/
def accessR100 (kind : Kind) (a : WindowAddr) (s : State) : State :=
  if kind = .peek ∧ a = 0x1850#13 ∧ s.p1 = 3#2 then
    let t := loadIntoRAM s.sys.b80 (emit (.masterRead 0x0080#16 s.sys.b80) s)
    { t with ret := .byte (imgByte t (t.p1.toNat * 2048 + a.toNat % 2048)) }
  else
    let s1 := if s.wp = true ∧ s.now.D > s.na + 5#32 then { s with wp := false } else s
    let s2 :=
      if a.toNat / 256 % 16 = 0 ∧ (s1.we = false ∨ s1.wp = false) then
        { s1 with dh := a.setWidth 8, na := s1.now.D, wp := true }
      else if a = 0x1FF8#13 then applyConfig s1.dh s1.now.C { s1 with wp := false }
      else if s1.we = true ∧ s1.wp = true ∧ s1.now.D = s1.na + 5#32 then
        let b := if a.toNat / 2048 % 2 = 0 then s1.p0 else s1.p1
        let t := if b ≠ 3#2 then writeImg (b.toNat * 2048 + a.toNat % 2048) s1.dh s1 else s1
        { t with wp := false }
      else s1
    let b := if a.toNat / 2048 % 2 = 0 then s2.p0 else s2.p1
    match kind with
    | .peek => { s2 with ret := .byte (imgByte s2 (b.toNat * 2048 + a.toNat % 2048)) }
    | .poke => { s2 with ret := .nothing }

/-! ## What a load does to RAM, said from the header's bytes (R76, R77, R163) -/

/-- Byte `k` of the store (R31). -/
def storeByte (loads : List Byte) (k : Nat) : Byte := loads.getD k 0#8

/-- Unit `i` is the first in storage order whose header byte 5 is `id` (R162, R164). -/
def FirstUnit (loads : List Byte) (id : Byte) (i : Nat) : Prop :=
  i < loads.length / 8448 ∧ storeByte loads (i * 8448 + 8192 + 5) = id ∧
    ∀ i', i' < i → storeByte loads (i' * 8448 + 8192 + 5) ≠ id

/-- Where in `IMG` the page of a descriptor goes (R78, R163). -/
def descriptorDest (d : Byte) : Nat := d.toNat % 4 * 2048 + d.toNat / 4 % 8 * 256

/-- The descriptor of page `j` of unit `i`, from the store's bytes (R76, R77). -/
def storedDescriptor (loads : List Byte) (i j : Nat) : Byte := storeByte loads (i * 8448 + 8192 + 16 + j)

/-- `cnt` of unit `i`, from the store's bytes (R77, R167). -/
def storedCount (loads : List Byte) (i : Nat) : Nat := min (storeByte loads (i * 8448 + 8192 + 3)).toNat 32

/-- Page `j` of unit `i` is copied over index `a` of `IMG` (R163, R172). -/
def PageCovers (loads : List Byte) (i j a : Nat) : Prop :=
  (storedDescriptor loads i j).toNat % 4 ≠ 3 ∧ descriptorDest (storedDescriptor loads i j) ≤ a ∧
    a < descriptorDest (storedDescriptor loads i j) + 256

/-- Where a page of unit `i` covers index `a`, `v` is the source byte of the last such page (R169, R172). -/
def HoldsSource (loads : List Byte) (i a : Nat) (v : Byte) : Prop :=
  ∀ j, j < storedCount loads i → PageCovers loads i j a →
    (∀ j', j < j' → j' < storedCount loads i → ¬ PageCovers loads i j' a) →
    v = storeByte loads (i * 8448 + j * 256 + (a - descriptorDest (storedDescriptor loads i j)))

/-- No page of unit `i` is copied where a page of unit `i'` is (R176). -/
def DisjointDests (loads : List Byte) (i i' : Nat) : Prop :=
  ∀ j j' a, j < storedCount loads i → j' < storedCount loads i' → PageCovers loads i j a → ¬ PageCovers loads i' j' a

/-- The sum of the header bytes 0 to 7 of unit `i` modulo 256 (R166). -/
def storedHeaderSum (loads : List Byte) (i : Nat) : Nat :=
  ((List.range 8).map fun k => (storeByte loads (i * 8448 + 8192 + k)).toNat).sum % 256

/-- The page checksum of page `j` of unit `i`: source bytes, descriptor and complement modulo 256 (R170). -/
def storedPageSum (loads : List Byte) (i j : Nat) : Nat :=
  (((List.range 256).map fun k => (storeByte loads (i * 8448 + j * 256 + k)).toNat).sum +
    (storedDescriptor loads i j).toNat + (storeByte loads (i * 8448 + 8192 + 64 + j)).toNat) % 256

/-- The first page of unit `i` whose checksum is not 0x55 (R170, R171). -/
def firstBadPage (loads : List Byte) (i : Nat) : Option Nat :=
  (List.range (storedCount loads i)).find? fun j => decide (storedPageSum loads i j ≠ 0x55)

/-- The effect of the load loop's body for the page at the cursor under a descriptor of value `d` (R163, R168 to R172): the diagnostic, the copy, the next page; everything else as before. -/
def PageEffect (d : Nat) (s t : State) : Prop :=
  let i := s.cur.unit
  let j := s.cur.page
  let bad := s.cur.seen = false ∧
    (((List.range 256).map fun k => (storeByte s.loads (i * 8448 + j * 256 + k)).toNat).sum + d +
      (storeByte s.loads (i * 8448 + 8192 + 64 + j)).toNat) % 256 ≠ 0x55
  t = { s with
        img := t.img
        cur := ⟨i, j + 1, s.cur.seen || decide bad⟩
        events := s.events ++ (if bad then [.diag (.pageChecksumInvalid i j)] else []) } ∧
  ∀ a, imgByte t a =
    if d % 4 ≠ 3 ∧ d % 4 * 2048 + d / 4 % 8 * 256 ≤ a ∧ a < d % 4 * 2048 + d / 4 % 8 * 256 + 256 then
      storeByte s.loads (i * 8448 + j * 256 + (a - (d % 4 * 2048 + d / 4 % 8 * 256)))
    else imgByte s a

/-- The banks `P0` of the paging modes 0 to 7 (R141). -/
def pagingP0 : List BankIx := [2#2, 0#2, 2#2, 0#2, 2#2, 1#2, 2#2, 1#2]

/-- The banks `P1` of the paging modes 0 to 7 (R141). -/
def pagingP1 : List BankIx := [3#2, 3#2, 0#2, 2#2, 3#2, 3#2, 1#2, 2#2]

/-- What ApplyConfig(v, C) leaves (R140 to R147), with the paging table of R141 written out: six registers and one event, everything else as before. -/
def configured (v : Byte) (C : Cycles) (s : State) : State :=
  { s with
    cb := BitVec.ofNat 5 (v.toNat % 32)
    rp := decide (v.toNat % 2 = 0)
    poc := if v.toNat % 2 = 0 then C else s.poc
    we := decide (v.toNat / 2 % 2 = 1)
    p0 := pagingP0.getD (v.toNat / 4 % 8) 0#2
    p1 := pagingP1.getD (v.toNat / 4 % 8) 0#2
    events := s.events ++ [.bankChanged] }

/-- The bank index that window address `a` is backed by (R52). -/
def backingBank (a : WindowAddr) (s : State) : BankIx := if a.toNat / 2048 % 2 = 0 then s.p0 else s.p1

/-- The index into `IMG` that window address `a` stands for (R53). -/
def backingIndex (a : WindowAddr) (s : State) : Nat := (backingBank a s).toNat * 2048 + a.toNat % 2048

/-- An access that neither loads, arms, applies a configuration nor commits (R61), in the state in which it begins. -/
def Quiet (kind : Kind) (a : WindowAddr) (s : State) : Prop :=
  ¬ (kind = .peek ∧ a = 0x1850#13 ∧ s.p1 = 3#2) ∧ a ≠ 0x1FF8#13 ∧
    ¬ (a.toNat / 256 % 16 = 0 ∧ (s.we = false ∨ s.wp = false ∨ s.now.D > s.na + 5#32)) ∧
    ¬ (s.we = true ∧ s.wp = true ∧ s.now.D = s.na + 5#32)

end Sys2Proof.Machine
end

