-- ==== Sys2Proof/Certificates/Slice0/Obligations.lean ====
section
/-! DEFINITION. The statements for the provers. -/

open Sys2Proof Sys2Proof.Machine

/-! ## Encoding -/

/-- Decoding the word of a well-formed instruction lists that instruction, and for the three formats other than the access word nothing else (R71, R72, R75, R78, R79). -/
def Obligations.DecodeListsEncodedInstruction : Prop :=
  ∀ i : Instr, i.wellFormed = true →
    ∃ l, decode i.format (encode i) = .ok l ∧ i ∈ l ∧ (i.format ≠ .accessWord → l = [i])

/-- Every instruction a word is read as is well-formed, of the word's format, and has that word: no bit of a word is dropped (R71, R74, R78, R79). -/
def Obligations.DecodedInstructionEncodesBack : Prop :=
  ∀ (f : Format) (w : Nat) (l : List Instr), decode f w = .ok l →
    l ≠ [] ∧ ∀ j ∈ l, j.wellFormed = true ∧ j.format = f ∧ encode j = w

/-- Every configuration byte and every page descriptor is read; an access word exactly where bit 12 is set (R51), a host selector exactly where R79 lists it. The refusal of the other selectors is the model's (log 23). -/
def Obligations.DecodeRefusesOnlyTheUnlisted : Prop :=
  (∀ w, w < 256 → (∃ i, decode .configByte w = .ok [i]) ∧ ∃ i, decode .pageDescriptor w = .ok [i]) ∧
  (∀ w, w < 16384 → w / 4096 % 2 = 0 → decode .accessWord w = .error .outsideWindow) ∧
  (∀ w, w < 16384 → w / 4096 % 2 = 1 → ∃ l, decode .accessWord w = .ok l) ∧
  (∀ w, w ≤ 8 → ∃ i, decode .hostSelector w = .ok [i]) ∧
  (∀ w, 8 < w → w < 16 → decode .hostSelector w = .error .noSuchOperation)

/-- The decode classes of an access word and their priority order (R72): mask and match of every class, less ACC.COMMIT where ACC.CONFIG is always taken. -/
def Obligations.AccessWordClassesInPriorityOrder : Prop :=
  ∀ (kind : Kind) (a : WindowAddr), a.getLsbD 12 = true →
    decodeAccess (accessWord kind a) = .ok
      ((if kind = .peek ∧ a = 0x1850#13 then [.accLoad] else []) ++ [.accExpire kind a] ++
        (if a.toNat / 256 % 16 = 0 then [.accArm kind (BitVec.ofNat 8 (a.toNat % 256))] else []) ++
        (if a = 0x1FF8#13 then [.accConfig kind] else [.accCommit kind a]) ++
        [if kind = .peek then .peekData a else .pokeEnd a])

/-- Words written out from the encodings of R71, R74, R78 and R79: `R $1042`, `W $1FF8`, `R $1850`, configuration 0x0B, descriptor 0x1E, selector 8. -/
def Obligations.SpecWordsDecode : Prop :=
  decode .accessWord 0b11000001000010 =
    .ok [.accExpire .peek 0x1042#13, .accArm .peek 0x42#8, .accCommit .peek 0x1042#13, .peekData 0x1042#13] ∧
  decode .accessWord 0b01111111111000 =
    .ok [.accExpire .poke 0x1FF8#13, .accConfig .poke, .pokeEnd 0x1FF8#13] ∧
  decode .accessWord 0b11100001010000 =
    .ok [.accLoad, .accExpire .peek 0x1850#13, .accCommit .peek 0x1850#13, .peekData 0x1850#13] ∧
  decode .configByte 0b00001011 = .ok [.cfgMode2 0#3 true true] ∧
  decode .pageDescriptor 0b00011110 = .ok [.descBank2 0#3 7#3] ∧
  decode .hostSelector 0b1000 = .ok [.hostConstruct]

/-! ## The step -/

/-- A step runs the decoded instructions of the oldest presented operation, in the state with that operation's inputs presented and no output yet: a host operation is one `exec`; an access runs the taken ones of its classes in the decoder's order, at most one of the exclusive ones, ending after ACC.LOAD (R12, R70, R72). With nothing presented nothing happens (the model's choice, log 2). -/
def Obligations.StepRunsDecodedInstructions : Prop :=
  (∀ s : State, s.pending = [] → step s = .next s) ∧
  (∀ (s : State) rest sel args i, s.pending = .host sel args :: rest → decodeHost sel = .ok i →
    step s = exec i { s with
      pending := rest, now := { s.now with C := args.C, n := args.n, image := args.image }
      ret := .nothing, events := [] }) ∧
  (∀ (s : State) rest kind addr data D C l, s.pending = .access kind addr data D C :: rest → s.ready = true →
    decodeAccess (accessWord kind (addr.setWidth 13)) = .ok l →
    step s = runClasses l false { s with
      pending := rest, now := { s.now with D := D, C := C }, ret := .nothing, events := [] }) ∧
  (∀ done u, runClasses [] done u = .next u) ∧
  (∀ i l done u, runClasses (i :: l) done u =
    if classTaken i u = true ∧ ¬ (done = true ∧ exclusiveClass i = true) then
      match exec i u with
      | .next t => if i = .accLoad then .next t else runClasses l (done || exclusiveClass i) t
      | .fault e => .fault e
      | .refused e => .refused e
    else runClasses l done u)

/-- One bus access after a reset is rule R100's pseudocode, run whole: the classes of R72 in the decoder's order amount to its flat if-then-else. -/
def Obligations.AccessStepIsR100 : Prop :=
  ∀ (s : State) kind addr data D C rest, s.pending = .access kind addr data D C :: rest →
    s.ready = true → addr.getLsbD 12 = true →
    step s = .next (accessR100 kind (addr.setWidth 13)
      { s with pending := rest, now := { s.now with D := D, C := C }, ret := .nothing, events := [] })

/-- Every operation completes: an access in the window after a reset and a listed host operation (R250), a save and a restore (R229), a system store. That a save, a restore and the CPU's store to system RAM (R82), which never reaches the block, are operations of the step is the model's choice (log 10, log 22). -/
def Obligations.EveryOperationCompletes : Prop :=
  ∀ (s : State) r rest, s.pending = r :: rest →
    (∀ kind addr data D C, r = .access kind addr data D C → s.ready = true ∧ addr.getLsbD 12 = true) →
    (∀ sel args, r = .host sel args → sel.toNat ≤ 8) →
    ∃ t, step s = .next t

/-- An access with a[12] = 0 and an access before the first reset are refused (R51, R283); so is an unlisted host selector (the model's, log 23). -/
def Obligations.UndeliveredOperationsAreRefused : Prop :=
  (∀ (s : State) kind addr data D C rest, s.pending = .access kind addr data D C :: rest → addr.getLsbD 12 = false →
    step s = .refused .outsideWindow) ∧
  (∀ (s : State) kind addr data D C rest, s.pending = .access kind addr data D C :: rest → addr.getLsbD 12 = true →
    s.ready = false → step s = .refused .beforeReset) ∧
  (∀ (s : State) sel args rest, s.pending = .host sel args :: rest → 8 < sel.toNat →
    step s = .refused .noSuchOperation)

/-- The access classes' own refusals (R51, R283). -/
def Obligations.AccessClassesRefuseUndelivered : Prop :=
  (∀ k (a : WindowAddr) (s : State), a.getLsbD 12 = false →
    exec (.accExpire k a) s = .refused .outsideWindow ∧ exec (.accCommit k a) s = .refused .outsideWindow ∧
    exec (.peekData a) s = .refused .outsideWindow ∧ exec (.pokeEnd a) s = .refused .outsideWindow) ∧
  (∀ k low (a : WindowAddr) (s : State), a.getLsbD 12 = true → s.ready = false →
    exec .accLoad s = .refused .beforeReset ∧ exec (.accExpire k a) s = .refused .beforeReset ∧
    exec (.accArm k low) s = .refused .beforeReset ∧ exec (.accConfig k) s = .refused .beforeReset ∧
    exec (.accCommit k a) s = .refused .beforeReset ∧ exec (.peekData a) s = .refused .beforeReset ∧
    exec (.pokeEnd a) s = .refused .beforeReset)

/-! ## The access classes -/

/-- ACC.EXPIRE (R103): a pending write is cancelled exactly where `D` exceeds `NA + 5` modulo 2^32, unsigned; `DH` and `NA` and all else stay. -/
def Obligations.ExpireCancelsBeyondFive : Prop :=
  ∀ k (a : WindowAddr) (s : State), a.getLsbD 12 = true → s.ready = true →
    exec (.accExpire k a) s =
      .next { s with wp := s.wp && !decide (s.now.D.toNat > (s.na.toNat + 5) % 4294967296) }

/-- ACC.ARM (R104): `DH`, `NA` and `WP` are written where `WE` is false or no write is pending; else nothing. -/
def Obligations.ArmLatchesLowAddressByte : Prop :=
  ∀ k (low : Byte) (s : State), s.ready = true →
    exec (.accArm k low) s =
      .next (if s.we = false ∨ s.wp = false then { s with dh := low, na := s.now.D, wp := true } else s)

/-- ACC.CONFIG (R105, R140): `WP` is cleared and the configuration in `DH` applied; memory, `DH` and `NA` stay. It is also what the configuration byte's own row does to that byte. -/
def Obligations.ConfigHotspotAppliesDataHold : Prop :=
  ∀ k (s : State), s.ready = true →
    exec (.accConfig k) s = .next (configured s.dh s.now.C { s with wp := false }) ∧
    exec (.accConfig k) s = exec (decodeConfig s.dh) { s with wp := false }

/-- ACC.COMMIT (R106, R107): where `WE`, `WP` and `D == NA + 5` hold, `WP` is cleared and `DH` is written at the resolved target unless that is in bank 3; every other byte, and everything where they do not hold, stays. -/
def Obligations.CommitWritesDataHoldAtTarget : Prop :=
  ∀ k (a : WindowAddr) (s : State), a.getLsbD 12 = true → s.ready = true →
    ∃ t, exec (.accCommit k a) s = .next t ∧ t = { s with img := t.img, wp := t.wp } ∧
      (t.wp = true ↔ s.wp = true ∧ ¬ (s.we = true ∧ s.now.D.toNat = (s.na.toNat + 5) % 4294967296)) ∧
      ∀ x, imgByte t x =
        if s.we = true ∧ s.wp = true ∧ s.now.D.toNat = (s.na.toNat + 5) % 4294967296 ∧
            backingBank a s ≠ 3#2 ∧ x = backingIndex a s
        then s.dh else imgByte s x

/-- PEEK.DATA (R108) returns the byte the address resolves to and writes nothing; POKE.END (R109) returns nothing and writes nothing. -/
def Obligations.DataReturnWritesNothing : Prop :=
  ∀ (a : WindowAddr) (s : State), a.getLsbD 12 = true → s.ready = true →
    exec (.peekData a) s = .next { s with ret := .byte (imgByte s (backingIndex a s)) } ∧
    exec (.pokeEnd a) s = .next { s with ret := .nothing }

/-- `resolve` (R52, R53): the index is bank times 2048 plus a[10:0], the bank is `P0` where a[11] = 0 and `P1` elsewhere, and the index is always in 0 to 8191 (the last is R53's own inference). -/
def Obligations.ResolveGivesBackingIndex : Prop :=
  ∀ (a : WindowAddr) (s : State),
    (resolve a s).1 = backingBank a s ∧ (resolve a s).2.toNat = a.toNat % 2048 ∧
    targetIndex a s = backingIndex a s ∧ targetIndex a s < 8192

/-- ACC.LOAD (R102, R172, R175): with `P1 == 3` it completes with the byte of bank-3 offset 0x050, as it was before the load, and changes nothing but the RAM bytes that a page of the first unit with the id covers, the scratch bytes, the events and the returned value; no byte of bank 3 changes. With another `P1` the class is not taken. -/
def Obligations.LoadTriggerReturnsRomByte : Prop :=
  ∀ s : State, s.ready = true → s.cur = LoadCursor.idle →
    (s.p1 = 3#2 → ∃ t, exec .accLoad s = .next t ∧
      t = { s with img := t.img, sys := t.sys, events := t.events, ret := .byte (imgByte s 0x1850) } ∧
      (∀ o, imgByte t (6144 + o) = imgByte s (6144 + o)) ∧
      ∀ a, (∀ i j, FirstUnit s.loads s.sys.b80 i → j < storedCount s.loads i → ¬ PageCovers s.loads i j a) →
        imgByte t a = imgByte s a) ∧
    (s.p1 ≠ 3#2 → exec .accLoad s = .next s)

/-! ## Whole accesses -/

/-- The gate's state machine (R111) for an access that is not the load trigger. Idle means not pending or just expired. -/
def Obligations.GateFollowsStateMachine : Prop :=
  ∀ (s : State) kind (addr : BitVec 16) data (D : Count) C rest,
    s.pending = .access kind addr data D C :: rest → s.ready = true → addr.getLsbD 12 = true →
    ¬ (kind = .peek ∧ addr.toNat % 8192 = 0x1850 ∧ s.p1 = 3#2) →
    ∃ t, step s = .next t ∧
      (addr.toNat / 256 % 16 = 0 ∧ (s.wp = false ∨ s.na + 5#32 < D ∨ s.we = false) →
        t.wp = true ∧ t.dh = addr.setWidth 8 ∧ t.na = D) ∧
      (¬ (addr.toNat / 256 % 16 = 0 ∧ (s.wp = false ∨ s.na + 5#32 < D ∨ s.we = false)) →
        t.dh = s.dh ∧ t.na = s.na ∧
        (t.wp = true ↔ s.wp = true ∧ ¬ s.na + 5#32 < D ∧ addr.toNat % 8192 ≠ 0x1FF8 ∧
          ¬ (s.we = true ∧ D = s.na + 5#32)))

/-- The write-commit invariant (R110): an access that is not the load trigger changes a byte of the bank array only as the commit of the byte in `DH`, exactly 5 distinct accesses after the arm, with writes enabled and a write pending, outside bank 3, and never at 0x1FF8. -/
def Obligations.BankArrayChangesOnlyByCommit : Prop :=
  ∀ (s t : State) kind (addr : BitVec 16) data (D : Count) C rest,
    s.pending = .access kind addr data D C :: rest → step s = .next t →
    ¬ (kind = .peek ∧ addr.toNat % 8192 = 0x1850 ∧ s.p1 = 3#2) →
    ∀ x, imgByte t x ≠ imgByte s x →
      s.we = true ∧ s.wp = true ∧ D = s.na + 5#32 ∧ addr.toNat % 8192 ≠ 0x1FF8 ∧
      backingBank (addr.setWidth 13) s ≠ 3#2 ∧ x = backingIndex (addr.setWidth 13) s ∧ imgByte t x = s.dh

/-- The configuration hotspot as a whole access (R105), of either kind: `WP` cleared, `DH` applied whether or not a write is pending, never a commit, and a `peek` returns the byte of the new mapping. What applying leaves is R140's: the stamp of `POC` on every byte with bit 0 clear (R142) is the spec's decision D8 (log 19), and `BankChanged` (R147) its D10 (log 21). -/
def Obligations.HotspotAccessReconfigures : Prop :=
  ∀ (s : State) kind (addr : BitVec 16) data D C rest,
    s.pending = .access kind addr data D C :: rest → s.ready = true → addr.toNat % 8192 = 0x1FF8 →
    ∃ t, step s = .next t ∧
      t = { configured s.dh C { s with wp := false, pending := rest, now := { s.now with D := D, C := C }, events := [] } with
            ret := t.ret } ∧
      (kind = .peek → t.ret = .byte (imgByte s (t.p1.toNat * 2048 + 0x7F8))) ∧ (kind = .poke → t.ret = .nothing)

/-- The load-trigger access (R102, R175, R291): whatever `D` it presents, it leaves the gate and the configuration as they were; a pending write survives it. -/
def Obligations.LoadTriggerSkipsGate : Prop :=
  ∀ (s : State) (addr : BitVec 16) data D C rest,
    s.pending = .access .peek addr data D C :: rest → s.ready = true → addr.toNat % 8192 = 0x1850 → s.p1 = 3#2 →
    ∃ t, step s = .next t ∧ t.wp = s.wp ∧ t.dh = s.dh ∧ t.na = s.na ∧ t.we = s.we ∧ t.rp = s.rp ∧ t.poc = s.poc ∧
      t.cb = s.cb ∧ t.p0 = s.p0 ∧ t.p1 = s.p1 ∧ t.loads = s.loads

/-- A `poke` acts as the `peek` of the same address with the same `D` and `C` would, but for the load trigger and the returned byte, and its data byte changes nothing (R73, R109). -/
def Obligations.PokeActsAsPeekWithoutReturn : Prop :=
  ∀ (s t : State) (addr : BitVec 16) data data' D C rest,
    ¬ (addr.toNat % 8192 = 0x1850 ∧ s.p1 = 3#2) →
    step { s with pending := .access .peek addr data D C :: rest } = .next t →
    step { s with pending := .access .poke addr data' D C :: rest } = .next { t with ret := .nothing }

/-- Address bits above 12 and the data byte of an access change nothing (R51, R54, R73, R101). -/
def Obligations.UpperAddressBitsAndDataIgnored : Prop :=
  ∀ (s : State) kind (addr addr' : BitVec 16) data data' D C rest, addr.toNat % 8192 = addr'.toNat % 8192 →
    step { s with pending := .access kind addr data D C :: rest } =
      step { s with pending := .access kind addr' data' D C :: rest }

/-- Two successive `peek`s of one address return the same byte when neither loads, arms, reconfigures or commits (R61). -/
def Obligations.QuietPeeksRepeat : Prop :=
  ∀ (s t u : State) (addr : BitVec 16) data data' D D' C C' rest,
    s.pending = .access .peek addr data D C :: .access .peek addr data' D' C' :: rest →
    Quiet .peek (addr.setWidth 13) { s with now := { s.now with D := D } } →
    step s = .next t → Quiet .peek (addr.setWidth 13) { t with now := { t.now with D := D' } } →
    step t = .next u → u.ret = t.ret

/-- The ROM power flag and the power-on timestamp change no access: an access from states that differ only there ends in states that differ only there (R25, R26, R264; the spec's decision D9, log 16). -/
def Obligations.RomPowerChangesNoAccess : Prop :=
  ∀ (s t : State) kind addr data D C rest rp' poc', s.pending = .access kind addr data D C :: rest →
    step s = .next t →
    ∃ t', step { s with rp := rp', poc := poc' } = .next t' ∧ t' = { t with rp := t'.rp, poc := t'.poc }

/-! ## The configuration byte -/

/-- CFG.MODE0 to CFG.MODE7 (R140 to R147): each row's next state, with the table of R141 written out; bits 7:5 have no effect. -/
def Obligations.ConfigRowsApplyModeTable : Prop :=
  ∀ (g : BitVec 3) (w p : Bool) (s : State),
    let after (m : Nat) (b0 b1 : BankIx) : State :=
      { s with
        cb := BitVec.ofNat 5 (m * 4 + w.toNat * 2 + p.toNat)
        rp := !p, poc := if p = true then s.poc else s.now.C, we := w, p0 := b0, p1 := b1
        events := s.events ++ [.bankChanged] }
    exec (.cfgMode0 g w p) s = .next (after 0 2#2 3#2) ∧ exec (.cfgMode1 g w p) s = .next (after 1 0#2 3#2) ∧
    exec (.cfgMode2 g w p) s = .next (after 2 2#2 0#2) ∧ exec (.cfgMode3 g w p) s = .next (after 3 0#2 2#2) ∧
    exec (.cfgMode4 g w p) s = .next (after 4 2#2 3#2) ∧ exec (.cfgMode5 g w p) s = .next (after 5 1#2 3#2) ∧
    exec (.cfgMode6 g w p) s = .next (after 6 2#2 1#2) ∧ exec (.cfgMode7 g w p) s = .next (after 7 1#2 2#2)

/-- The mode field `v[4:2]` of a configuration byte selects the banks of the two sub-windows (R75). -/
def Obligations.ModeFieldSelectsBanks : Prop :=
  ∀ (v : Byte) (s : State), ∃ t, exec (decodeConfig v) s = .next t ∧
    (v.toNat / 4 % 8 = 0 → t.p0 = 2#2 ∧ t.p1 = 3#2) ∧ (v.toNat / 4 % 8 = 1 → t.p0 = 0#2 ∧ t.p1 = 3#2) ∧
    (v.toNat / 4 % 8 = 2 → t.p0 = 2#2 ∧ t.p1 = 0#2) ∧ (v.toNat / 4 % 8 = 3 → t.p0 = 0#2 ∧ t.p1 = 2#2) ∧
    (v.toNat / 4 % 8 = 4 → t.p0 = 2#2 ∧ t.p1 = 3#2) ∧ (v.toNat / 4 % 8 = 5 → t.p0 = 1#2 ∧ t.p1 = 3#2) ∧
    (v.toNat / 4 % 8 = 6 → t.p0 = 2#2 ∧ t.p1 = 1#2) ∧ (v.toNat / 4 % 8 = 7 → t.p0 = 1#2 ∧ t.p1 = 2#2)

/-- Every configuration byte decodes to a row that applies it, whatever its bits 7:5 (R140, R145, R146). -/
def Obligations.EveryConfigByteIsApplied : Prop :=
  ∀ (v : Byte) (s : State),
    exec (decodeConfig v) s = .next (configured v s.now.C s) ∧
    exec (decodeConfig v) s = exec (decodeConfig (v &&& 0x1F#8)) s

/-- The page-0 and page-1 windows never alias after a reset (R23, R54, R141). -/
def Obligations.WindowsNeverAlias : Prop :=
  ∀ (s : State) (a b : WindowAddr), Inv s → s.ready = true → a.getLsbD 11 = false → b.getLsbD 11 = true →
    s.p0 ≠ 3#2 ∧ targetIndex a s ≠ targetIndex b s

/-- Which steps can change the registers of the bank-configuration register (R23, R140, R226, R229, R260): `P0`, `P1`, `WE`, `RP` and `CB` change in an access to the hotspot, `install`, `reset`, `setBank`, a construction and a restore alone; `POC` in those and the rebase alone. -/
def Obligations.ConfigurationWriters : Prop :=
  ∀ (s t : State) r rest, s.pending = r :: rest → step s = .next t →
    ((t.p0, t.p1, t.we, t.rp, t.cb) ≠ (s.p0, s.p1, s.we, s.rp, s.cb) →
      (∃ kind addr data D C, r = .access kind addr data D C ∧ addr.toNat % 8192 = 0x1FF8) ∨
      (∃ sel args, r = .host sel args ∧ (sel = 0#4 ∨ sel = 1#4 ∨ sel = 2#4 ∨ sel = 8#4)) ∨
      (∃ v, r = .restore v)) ∧
    (t.poc ≠ s.poc →
      (∃ kind addr data D C, r = .access kind addr data D C ∧ addr.toNat % 8192 = 0x1FF8) ∨
      (∃ sel args, r = .host sel args ∧ (sel = 0#4 ∨ sel = 1#4 ∨ sel = 2#4 ∨ sel = 7#4 ∨ sel = 8#4)) ∨
      (∃ v, r = .restore v))

/-! ## Page descriptors and loads -/

/-- DESC.BANK0, DESC.BANK1, DESC.BANK2 and DESC.ROM (R163, R168 to R172), for the page at the cursor of a load of a unit of the store. -/
def Obligations.DescriptorRowsCheckAndCopy : Prop :=
  ∀ (g q : BitVec 3) (s : State), s.cur.unit < s.loads.length / 8448 → s.cur.page < 32 →
    (∃ t, exec (.descBank0 g q) s = .next t ∧ PageEffect (g.toNat * 32 + q.toNat * 4 + 0) s t) ∧
    (∃ t, exec (.descBank1 g q) s = .next t ∧ PageEffect (g.toNat * 32 + q.toNat * 4 + 1) s t) ∧
    (∃ t, exec (.descBank2 g q) s = .next t ∧ PageEffect (g.toNat * 32 + q.toNat * 4 + 2) s t) ∧
    (∃ t, exec (.descRom g q) s = .next t ∧ PageEffect (g.toNat * 32 + q.toNat * 4 + 3) s t)

/-- The load engine's page loop runs the instruction that each descriptor decodes to, in page order (R163, R168). -/
def Obligations.LoadLoopRunsDescriptors : Prop :=
  (∀ s : State, runPages 0 s = s) ∧
  ∀ (k : Nat) (s : State),
    exec (decodeDescriptor (pageDescriptor s.loads s.cur.unit s.cur.page)) s =
      .next (processPage (pageDescriptor s.loads s.cur.unit s.cur.page) s) ∧
    runPages (k + 1) s = runPages k (processPage (pageDescriptor s.loads s.cur.unit s.cur.page) s)

/-- What a load leaves in the bank array (R163, R164, R167, R169, R172): over the first unit with the id, a byte covered by a copied page holds the source byte of the last such page, and every other byte stays. -/
def Obligations.LoadFillsNamedPages : Prop :=
  ∀ (s : State) (i : Nat), s.ready = true → s.p1 = 3#2 → FirstUnit s.loads s.sys.b80 i →
    ∃ t, exec .accLoad s = .next t ∧
      (∀ a j, j < storedCount s.loads i → PageCovers s.loads i j a →
        (∀ j', j < j' → j' < storedCount s.loads i → ¬ PageCovers s.loads i j' a) →
        imgByte t a = storeByte s.loads (i * 8448 + j * 256 + (a - descriptorDest (storedDescriptor s.loads i j)))) ∧
      (∀ a, (∀ j, j < storedCount s.loads i → ¬ PageCovers s.loads i j a) → imgByte t a = imgByte s a)

/-- What a load sends out, in order (R68, R166, R170, R171, R173, R174, R255): the master read, the header diagnostic if the header sum is not 0x55, the diagnostic of the first bad page if there is one, the three hand-off writes, `BankChanged`; and the scratch bytes afterwards. -/
def Obligations.LoadEmitsInOrder : Prop :=
  ∀ (s : State) (i : Nat), s.ready = true → s.p1 = 3#2 → FirstUnit s.loads s.sys.b80 i →
    let h (k : Nat) : Byte := storeByte s.loads (i * 8448 + 8192 + k)
    ∃ t, exec .accLoad s = .next t ∧ t.sys = ⟨h 2, h 0, h 1⟩ ∧
      t.events = s.events ++ [.masterRead 0x0080#16 s.sys.b80] ++
        (if storedHeaderSum s.loads i = 0x55 then [] else [.diag (.headerChecksumInvalid i)]) ++
        (match firstBadPage s.loads i with
          | some j => [.diag (.pageChecksumInvalid i j)]
          | none => []) ++
        [.masterWrite 0x00FE#16 (h 0), .masterWrite 0x00FF#16 (h 1), .masterWrite 0x0080#16 (h 2), .bankChanged]

/-- A load whose id no unit has (R165, R252): the diagnostic and nothing else; the access still returns its byte. -/
def Obligations.MissingLoadOnlyReports : Prop :=
  ∀ s : State, s.ready = true → s.p1 = 3#2 → (∀ i, ¬ FirstUnit s.loads s.sys.b80 i) →
    exec .accLoad s = .next { s with
      ret := .byte (imgByte s 0x1850)
      events := s.events ++ [.masterRead 0x0080#16 s.sys.b80, .diag (.loadMissing s.sys.b80)] }

/-- Two units whose copied pages do not overlap (R176): in whichever order they are loaded, every byte covered by a page of either unit holds that unit's own source byte (of the last page of the unit that covers it), every other byte stays, and so both orders leave the same bank array. -/
def Obligations.DisjointLoadsCommute : Prop :=
  ∀ (s : State) (x y : Byte) (i j : Nat), s.ready = true → s.p1 = 3#2 →
    FirstUnit s.loads x i → FirstUnit s.loads y j → DisjointDests s.loads i j →
    ∃ t u t' u', exec .accLoad { s with sys := { s.sys with b80 := x } } = .next t ∧
      exec .accLoad { t with sys := { t.sys with b80 := y } } = .next u ∧
      exec .accLoad { s with sys := { s.sys with b80 := y } } = .next t' ∧
      exec .accLoad { t' with sys := { t'.sys with b80 := x } } = .next u' ∧
      (∀ a, imgByte u a = imgByte u' a) ∧
      (∀ a, HoldsSource s.loads i a (imgByte u a) ∧ HoldsSource s.loads j a (imgByte u a)) ∧
      ∀ a, (∀ k, k < storedCount s.loads i → ¬ PageCovers s.loads i k a) →
        (∀ k, k < storedCount s.loads j → ¬ PageCovers s.loads j k a) → imgByte u a = imgByte s a

/-! ## Bank 3, the store, and the invariant -/

/-- Bank 3 is immutable between resets (R22, R107, R172, R207): over any number of steps among which neither a reset nor a new construction is presented, every byte of bank 3 stays. -/
def Obligations.RomUnchangedBetweenResets : Prop :=
  ∀ (n : Nat) (s t : State), Memory.wf s.img = true →
    (∀ sel args, Request.host sel args ∈ s.pending → sel ≠ 1#4 ∧ sel ≠ 8#4) →
    Sys2Proof.core.run n s = .next t →
    ∀ o, o < 2048 → imgByte t (6144 + o) = imgByte s (6144 + o)

/-- The load-image store changes only in a construction (R31). -/
def Obligations.StoreWrittenByConstructionOnly : Prop :=
  ∀ (s t : State) r rest, s.pending = r :: rest → step s = .next t → t.loads ≠ s.loads →
    ∃ args, r = .host 8#4 args

/-- The invariant holds right after reset (R281). -/
def Obligations.ResetMeetsInvariant : Prop := Inv State.reset

/-- Every step keeps the invariant, from every state that has it: the bank array's canonical form with bank 3 unwritten, a store of at least one unit, the configuration registers coherent, no load in progress. -/
def Obligations.StepKeepsInvariant : Prop := ∀ s t : State, Inv s → step s = .next t → Inv t

/-! ## Host operations -/

/-- HOST.RESET (R280, R281): the registers it leaves, from any state; `LOADS` stays, a pending write is discarded, RAM is a fresh draw. -/
def Obligations.ResetLeavesR281State : Prop :=
  ∀ s : State, ∃ t, exec .hostReset s = .next t ∧
    t = { s with
          img := t.img, epoch := t.epoch, ready := true, p0 := 2#2, p1 := 3#2, we := false, rp := true
          poc := s.now.C, cb := 0#5, dh := 0#8, na := 0#32, wp := false, ret := .nothing
          events := s.events ++ [.bankChanged] } ∧
    t.epoch ≠ s.epoch ∧ ∀ a, a < 6144 → imgByte t a = Config.ramDraw t.epoch a

/-- InjectBios (R200 to R206): bank 3 after a reset, byte for byte, under the parameters' preconditions, which hold. -/
def Obligations.ResetInjectsBios : Prop :=
  (2 ≤ Config.stubLen ∧ Config.stubLen ≤ 2044 ∧ Config.fastbootOffset < Config.stubLen ∧
    Config.accOffset < Config.stubLen ∧ Config.accOffset ≠ Config.fastbootOffset) ∧
  ∀ s : State, ∃ t, exec .hostReset s = .next t ∧
    (∀ o, o < Config.stubLen → o ≠ Config.fastbootOffset → o ≠ Config.accOffset →
      imgByte t (6144 + o) = Config.biosStub o) ∧
    imgByte t (6144 + Config.fastbootOffset) = Config.fastbootByte ∧
    imgByte t (6144 + Config.accOffset) = Config.accDraw t.epoch ∧
    (∀ o, Config.stubLen ≤ o → o < 2044 → imgByte t (6144 + o) = 0x02#8) ∧
    (∀ k, k < 4 → imgByte t (6144 + 2044 + k) = Config.vectorQuad k)

/-- The vector fetches after a reset (R205, R282): a `peek` of 0x1FFC + k returns `VECTOR_QUAD[k]` and emits nothing, and of the state only the queue, the presented inputs and these two outputs differ afterwards. -/
def Obligations.VectorsReadAfterReset : Prop :=
  ∀ (s t : State) (k : Nat) data D C rest, exec .hostReset s = .next t → k < 4 →
    ∃ u, step { t with pending := .access .peek (BitVec.ofNat 16 (0x1FFC + k)) data D C :: rest } = .next u ∧
      u = { t with pending := rest, now := u.now, ret := .byte (Config.vectorQuad k), events := [] }

/-- HOST.INSTALL (R220): every bus page of the window is claimed, then configuration 0 applied; the gate and the bank array stay. -/
def Obligations.InstallClaimsWindow : Prop :=
  ∀ s : State, ∃ pages : List Nat, exec .hostInstall s = .next { s with
      installed := true, p0 := 2#2, p1 := 3#2, we := false, rp := true, cb := 0#5, poc := s.now.C, ret := .nothing
      events := s.events ++ pages.map Event.setPageAccess ++ [.bankChanged] } ∧
    ∀ k, k ∈ pages ↔ ∃ addr, 0x1000 ≤ addr ∧ addr ≤ 0x1FFF ∧ k = addr / 2 ^ Config.busPageShift

/-- HOST.SETBANK (R221): the low byte of `n` is applied and true returned; `DH`, `NA` and `WP` stay. -/
def Obligations.SetBankAppliesLowByte : Prop :=
  ∀ s : State, exec .hostSetbank s =
    .next { configured (BitVec.ofNat 8 (s.now.n % 256)) s.now.C s with ret := .bool true }

/-- HOST.BANKCOUNT returns 32 (R223), HOST.PATCH false (R224), HOST.RAWIMAGE `LOADS` and `S` (R225); none changes anything or emits anything. -/
def Obligations.QueriesChangeNothing : Prop :=
  ∀ s : State,
    exec .hostBankcount s = .next { s with ret := .count 32 } ∧
    exec .hostPatch s = .next { s with ret := .bool false } ∧
    exec .hostRawimage s = .next { s with ret := .image s.loads s.loads.length }

/-- HOST.CURRENTBANK returns `CB` and changes nothing (R222; the spec's decision D12); after a configuration byte `v` was applied it returns `v[4:0]`. -/
def Obligations.CurrentBankReturnsLastConfiguration : Prop :=
  ∀ (v : Byte) (s : State),
    exec .hostCurrentbank s = .next { s with ret := .bank s.cb } ∧
    ∃ t, exec (decodeConfig v) s = .next t ∧
      exec .hostCurrentbank t = .next { t with ret := .bank (BitVec.ofNat 5 (v.toNat % 32)) }

/-- HOST.ONSYSTEMCYCLESRESET (R226): only `POC` changes, and the elapsed count from it is the same after the rebase. -/
def Obligations.RebaseKeepsElapsedCycles : Prop :=
  ∀ s : State, ∃ t, exec .hostOnsystemcyclesreset s = .next t ∧ t = { s with poc := t.poc, ret := .nothing } ∧
    ∀ x : Cycles, x - t.poc = (s.now.C + x) - s.poc

/-- HOST.CONSTRUCT (R160, R161, R35, R283): the store is the supplied image, or below one unit the image, gap fill and default header; accesses are refused until a reset. That it completes on a machine that already ran, with the window no longer claimed and the queue and the scratch bytes kept, is the model's choice (log 27, log 24, log 10). -/
def Obligations.ConstructBuildsStore : Prop :=
  ∀ s : State, ∃ t, exec .hostConstruct s = .next t ∧ t.ready = false ∧ t.installed = false ∧
    t.pending = s.pending ∧ t.sys = s.sys ∧
    t.loads.length = max s.now.image.length 8448 ∧ 1 ≤ t.loads.length / 8448 ∧
    (8448 ≤ s.now.image.length → t.loads = s.now.image) ∧
    (s.now.image.length < 8448 →
      (∀ o, o < s.now.image.length → o < 8192 → storeByte t.loads o = storeByte s.now.image o) ∧
      (∀ o, s.now.image.length ≤ o → o < 8192 → storeByte t.loads o = Config.gapFill o) ∧
      (∀ o, o < 256 → storeByte t.loads (8192 + o) = Config.defaultHeader o))

/-- A save-state, restored into any state, brings back RAM and the registers and leaves bank 3 and the store (R229). That both are operations of the step is the model's choice (log 22). -/
def Obligations.RestoreBringsBackSavedState : Prop :=
  ∀ (s s' t : State) rest rest', s.pending = .save :: rest →
    ∃ v u, step s = .next u ∧ u.ret = .saved v ∧
      (s'.pending = .restore v :: rest' → step s' = .next t →
        (∀ a, a < 6144 → imgByte t a = imgByte s a) ∧ (∀ o, imgByte t (6144 + o) = imgByte s' (6144 + o)) ∧
        t.p0 = s.p0 ∧ t.p1 = s.p1 ∧ t.we = s.we ∧ t.rp = s.rp ∧ t.poc = s.poc ∧ t.cb = s.cb ∧
        t.dh = s.dh ∧ t.na = s.na ∧ t.wp = s.wp ∧ t.loads = s'.loads ∧ t.ready = s'.ready ∧ t.events = [.bankChanged])

/-- Saving (R229) and the CPU's store to system RAM (R82) leave the block alone, whose state the system bytes are not (R34): a store reaches only the scratch byte it names, and at another address nothing of this state. That the two are operations of the step with these effects is the model's choice (log 22, log 10). -/
def Obligations.OutsideMovesLeaveTheBlock : Prop :=
  (∀ (s : State) rest, s.pending = .save :: rest →
    ∃ v, step s = .next { s with pending := rest, ret := .saved v, events := [] }) ∧
  (∀ (s : State) (x : BitVec 16) (v : Byte) rest, s.pending = .systemStore x v :: rest →
    ∃ sys, step s = .next { s with pending := rest, ret := .nothing, events := [], sys := sys } ∧
      sys.b80 = (if x.toNat = 0x80 then v else s.sys.b80) ∧ sys.bFE = (if x.toNat = 0xFE then v else s.sys.bFE) ∧
      sys.bFF = (if x.toNat = 0xFF then v else s.sys.bFF))

/-! ## The end of a load -/

/-- A successful load ends by emitting `BankChanged` (R174). -/
def Obligations.LoadEndsWithBankChanged : Prop :=
  ∀ (s : State) (i : Nat), s.ready = true → s.p1 = 3#2 → FirstUnit s.loads s.sys.b80 i →
    ∃ t sent, exec .accLoad s = .next t ∧ t.events = s.events ++ sent ++ [.bankChanged]
end

