-- ==== Sys2Proof/Laws/Decode.lean ====
section
/-! SUPPORT. The masks of R72 read as conditions on the kind and the window address, and the field lemmas of the byte formats. -/

namespace Sys2Proof

@[simp] theorem wordKind_accessWord (kind : Kind) (a : WindowAddr) : wordKind (accessWord kind a) = kind := by
  have h : (accessWord kind a).getLsbD 13 = kind.rw.getLsbD 0 := by
    unfold accessWord; rw [BitVec.getLsbD_append]; simp
  unfold wordKind
  rw [h]
  cases kind <;> rfl

@[simp] theorem wordAddr_accessWord (kind : Kind) (a : WindowAddr) : wordAddr (accessWord kind a) = a := by
  unfold wordAddr accessWord
  exact BitVec.setWidth_append_eq_right

/-- Every access word is one of a kind and a window address. -/
theorem accessWord_wordKind_wordAddr (W : BitVec 14) : accessWord (wordKind W) (wordAddr W) = W := by
  apply BitVec.eq_of_getLsbD_eq
  intro i hi
  unfold accessWord wordAddr
  rw [BitVec.getLsbD_append]
  by_cases h : i < 13
  · simp [h]
  · have h13 : i = 13 := by omega
    subst h13
    unfold wordKind
    cases hW : W.getLsbD 13 <;> simp [Kind.rw]

theorem accessWord_inj {k k' : Kind} {a a' : WindowAddr} : accessWord k a = accessWord k' a' ↔ k = k' ∧ a = a' := by
  constructor
  · intro h
    have h1 := congrArg wordKind h
    have h2 := congrArg wordAddr h
    simp only [wordKind_accessWord, wordAddr_accessWord] at h1 h2
    exact ⟨h1, h2⟩
  · rintro ⟨rfl, rfl⟩; rfl

/-- A mask over an access word acts on the kind bit and the address apart. -/
theorem accessWord_and (kind : Kind) (a m : WindowAddr) (r : BitVec 1) :
    accessWord kind a &&& (r ++ m) = (kind.rw &&& r) ++ (a &&& m) := BitVec.and_append

theorem append_eq_iff {n m : Nat} {x x' : BitVec n} {y y' : BitVec m} : x ++ y = x' ++ y' ↔ x = x' ∧ y = y' := by
  constructor
  · intro h
    refine ⟨?_, ?_⟩
    · have := congrArg (BitVec.extractLsb' m n) h
      simpa [BitVec.extractLsb'_append_eq_left] using this
    · have := congrArg (BitVec.setWidth m) h
      simpa [BitVec.setWidth_append_eq_right] using this
  · rintro ⟨rfl, rfl⟩; rfl

/-- A window address as its high five bits and its low byte. -/
theorem windowAddr_split (a : WindowAddr) : a = a.extractLsb' 8 5 ++ a.setWidth 8 := by
  apply BitVec.eq_of_getLsbD_eq
  intro i hi
  rw [BitVec.getLsbD_append]
  by_cases h : i < 8
  · simp [h]
  · simp [h, show i - 8 < 5 by omega, show 8 + (i - 8) = i by omega]

theorem windowAddr_high (a : WindowAddr) : (a.extractLsb' 8 5).toNat = a.toNat / 256 := by
  have := a.isLt
  rw [BitVec.extractLsb'_toNat, Nat.shiftRight_eq_div_pow]
  omega

/-- Bit 12 of a window address. -/
theorem windowAddr_bit12 (a : WindowAddr) : a.getLsbD 12 = true ↔ 4096 ≤ a.toNat := by
  have h := a.isLt
  rw [BitVec.getLsbD, Nat.testBit_eq_decide_div_mod_eq]
  simp only [decide_eq_true_eq]
  omega

/-- Bit 11 of a window address, which selects the sub-window (R52). -/
theorem windowAddr_bit11 (a : WindowAddr) : a.getLsbD 11 = true ↔ a.toNat / 2048 % 2 = 1 := by
  rw [BitVec.getLsbD, Nat.testBit_eq_decide_div_mod_eq]
  simp

/-- The class ACC.LOAD of R72: a peek of 0x1850. -/
theorem mask_load (kind : Kind) (a : WindowAddr) :
    accessWord kind a &&& 0x3FFF#14 = 0x3850#14 ↔ kind = .peek ∧ a = 0x1850#13 := by
  rw [show (0x3FFF#14) = BitVec.allOnes 14 from rfl, BitVec.and_allOnes,
    show (0x3850#14) = accessWord .peek 0x1850#13 from rfl]
  exact accessWord_inj

/-- The classes of every delivered access (R72): a[12] = 1. -/
theorem mask_window (kind : Kind) (a : WindowAddr) :
    accessWord kind a &&& 0x1000#14 = 0x1000#14 ↔ a.getLsbD 12 = true := by
  rw [show (0x1000#14) = 0#1 ++ (0x10#5 ++ 0#8 : BitVec 13) from rfl, accessWord_and, append_eq_iff]
  conv_lhs => rw [windowAddr_split a]
  rw [BitVec.and_append, append_eq_iff]
  have h : ∀ x : BitVec 5, x &&& 0x10#5 = 0x10#5 ↔ x.getLsbD 4 = true := by decide
  simp [h]

/-- The class ACC.ARM of R72, for a delivered access: a[11:8] = 0. -/
theorem mask_arm (kind : Kind) {a : WindowAddr} (ha : a.getLsbD 12 = true) :
    accessWord kind a &&& 0x1F00#14 = 0x1000#14 ↔ a.toNat / 256 % 16 = 0 := by
  rw [show (0x1F00#14) = 0#1 ++ (0x1F#5 ++ 0#8 : BitVec 13) from rfl,
    show (0x1000#14) = 0#1 ++ (0x10#5 ++ 0#8 : BitVec 13) from rfl, accessWord_and, append_eq_iff]
  conv_lhs => rw [windowAddr_split a]
  rw [BitVec.and_append, append_eq_iff]
  have h : ∀ x : BitVec 5, x &&& 0x1F#5 = 0x10#5 ↔ x.toNat = 16 := by decide
  rw [h, windowAddr_high]
  have h1 := (windowAddr_bit12 a).mp ha
  have h2 := a.isLt
  simp
  omega

/-- The class ACC.CONFIG of R72: a = 0x1FF8, of either kind. -/
theorem mask_config (kind : Kind) (a : WindowAddr) :
    accessWord kind a &&& 0x1FFF#14 = 0x1FF8#14 ↔ a = 0x1FF8#13 := by
  rw [show (0x1FFF#14) = 0#1 ++ BitVec.allOnes 13 from rfl, accessWord_and, BitVec.and_allOnes,
    show (0x1FF8#14) = 0#1 ++ 0x1FF8#13 from rfl, append_eq_iff]
  simp

/-- The class PEEK.DATA of R72, for a delivered access. -/
theorem mask_peek (kind : Kind) {a : WindowAddr} (ha : a.getLsbD 12 = true) :
    accessWord kind a &&& 0x3000#14 = 0x3000#14 ↔ kind = .peek := by
  rw [show (0x3000#14) = 1#1 ++ (0x1000#13) from rfl, accessWord_and, append_eq_iff]
  have h1 := (mask_window .poke a).mpr ha
  rw [show (0x1000#14) = 0#1 ++ (0x1000#13) from rfl, accessWord_and, append_eq_iff] at h1
  simp only [h1.2, and_true]
  cases kind <;> decide

/-- The class POKE.END of R72, for a delivered access. -/
theorem mask_poke (kind : Kind) {a : WindowAddr} (ha : a.getLsbD 12 = true) :
    accessWord kind a &&& 0x3000#14 = 0x1000#14 ↔ kind = .poke := by
  rw [show (0x3000#14) = 1#1 ++ (0x1000#13) from rfl, accessWord_and,
    show (0x1000#14) = 0#1 ++ (0x1000#13) from rfl, append_eq_iff]
  have h1 := (mask_window .poke a).mpr ha
  rw [show (0x1000#14) = 0#1 ++ (0x1000#13) from rfl, accessWord_and, append_eq_iff] at h1
  simp only [h1.2, and_true]
  cases kind <;> decide

/-- A configuration byte is its four fields (R74). -/
theorem configByte_fields (v : Byte) : configByte (cfgIgnored v) (cfgMode v) (cfgW v) (cfgP v) = v := by
  revert v; decide

/-- The fields of an assembled configuration byte (R74). -/
theorem fields_configByte (g m : BitVec 3) (w p : Bool) :
    cfgIgnored (configByte g m w p) = g ∧ cfgMode (configByte g m w p) = m ∧ cfgW (configByte g m w p) = w ∧
      cfgP (configByte g m w p) = p ∧
      (configByte g m w p).toNat = g.toNat * 32 + m.toNat * 4 + w.toNat * 2 + p.toNat := by
  revert g m w p; decide

/-- A page descriptor is its three fields (R78). -/
theorem descriptorByte_fields (d : Byte) : descriptorByte (descIgnored d) (descPage d) (descBank d) = d := by
  revert d; decide

/-- The fields of an assembled page descriptor (R78). -/
theorem fields_descriptorByte (g q : BitVec 3) (b : BankIx) :
    descIgnored (descriptorByte g q b) = g ∧ descPage (descriptorByte g q b) = q ∧
      descBank (descriptorByte g q b) = b ∧
      (descriptorByte g q b).toNat = g.toNat * 32 + q.toNat * 4 + b.toNat := by
  revert g q b; decide

end Sys2Proof
end

