-- ==== Sys2Proof/Laws/State.lean ====
section
/-! SUPPORT. One lemma per field per named update of the state, so that no later proof unfolds a record update. -/

namespace Sys2Proof.Machine

@[simp] theorem emit_img (e : Event) (s : State) : (emit e s).img = s.img := rfl
@[simp] theorem emit_epoch (e : Event) (s : State) : (emit e s).epoch = s.epoch := rfl
@[simp] theorem emit_ready (e : Event) (s : State) : (emit e s).ready = s.ready := rfl
@[simp] theorem emit_installed (e : Event) (s : State) : (emit e s).installed = s.installed := rfl
@[simp] theorem emit_p0 (e : Event) (s : State) : (emit e s).p0 = s.p0 := rfl
@[simp] theorem emit_p1 (e : Event) (s : State) : (emit e s).p1 = s.p1 := rfl
@[simp] theorem emit_we (e : Event) (s : State) : (emit e s).we = s.we := rfl
@[simp] theorem emit_rp (e : Event) (s : State) : (emit e s).rp = s.rp := rfl
@[simp] theorem emit_poc (e : Event) (s : State) : (emit e s).poc = s.poc := rfl
@[simp] theorem emit_cb (e : Event) (s : State) : (emit e s).cb = s.cb := rfl
@[simp] theorem emit_dh (e : Event) (s : State) : (emit e s).dh = s.dh := rfl
@[simp] theorem emit_na (e : Event) (s : State) : (emit e s).na = s.na := rfl
@[simp] theorem emit_wp (e : Event) (s : State) : (emit e s).wp = s.wp := rfl
@[simp] theorem emit_loads (e : Event) (s : State) : (emit e s).loads = s.loads := rfl
@[simp] theorem emit_sys (e : Event) (s : State) : (emit e s).sys = s.sys := rfl
@[simp] theorem emit_pending (e : Event) (s : State) : (emit e s).pending = s.pending := rfl
@[simp] theorem emit_now (e : Event) (s : State) : (emit e s).now = s.now := rfl
@[simp] theorem emit_cur (e : Event) (s : State) : (emit e s).cur = s.cur := rfl
@[simp] theorem emit_ret (e : Event) (s : State) : (emit e s).ret = s.ret := rfl
@[simp] theorem emit_events (e : Event) (s : State) : (emit e s).events = s.events ++ [e] := rfl

@[simp] theorem returning_img (r : Ret) (s : State) : (returning r s).img = s.img := rfl
@[simp] theorem returning_epoch (r : Ret) (s : State) : (returning r s).epoch = s.epoch := rfl
@[simp] theorem returning_ready (r : Ret) (s : State) : (returning r s).ready = s.ready := rfl
@[simp] theorem returning_installed (r : Ret) (s : State) : (returning r s).installed = s.installed := rfl
@[simp] theorem returning_p0 (r : Ret) (s : State) : (returning r s).p0 = s.p0 := rfl
@[simp] theorem returning_p1 (r : Ret) (s : State) : (returning r s).p1 = s.p1 := rfl
@[simp] theorem returning_we (r : Ret) (s : State) : (returning r s).we = s.we := rfl
@[simp] theorem returning_rp (r : Ret) (s : State) : (returning r s).rp = s.rp := rfl
@[simp] theorem returning_poc (r : Ret) (s : State) : (returning r s).poc = s.poc := rfl
@[simp] theorem returning_cb (r : Ret) (s : State) : (returning r s).cb = s.cb := rfl
@[simp] theorem returning_dh (r : Ret) (s : State) : (returning r s).dh = s.dh := rfl
@[simp] theorem returning_na (r : Ret) (s : State) : (returning r s).na = s.na := rfl
@[simp] theorem returning_wp (r : Ret) (s : State) : (returning r s).wp = s.wp := rfl
@[simp] theorem returning_loads (r : Ret) (s : State) : (returning r s).loads = s.loads := rfl
@[simp] theorem returning_sys (r : Ret) (s : State) : (returning r s).sys = s.sys := rfl
@[simp] theorem returning_pending (r : Ret) (s : State) : (returning r s).pending = s.pending := rfl
@[simp] theorem returning_now (r : Ret) (s : State) : (returning r s).now = s.now := rfl
@[simp] theorem returning_cur (r : Ret) (s : State) : (returning r s).cur = s.cur := rfl
@[simp] theorem returning_ret (r : Ret) (s : State) : (returning r s).ret = r := rfl
@[simp] theorem returning_events (r : Ret) (s : State) : (returning r s).events = s.events := rfl

@[simp] theorem writeImg_img (a : Nat) (v : Byte) (s : State) : (writeImg a v s).img = Memory.insert a v s.img := rfl
@[simp] theorem writeImg_epoch (a : Nat) (v : Byte) (s : State) : (writeImg a v s).epoch = s.epoch := rfl
@[simp] theorem writeImg_ready (a : Nat) (v : Byte) (s : State) : (writeImg a v s).ready = s.ready := rfl
@[simp] theorem writeImg_installed (a : Nat) (v : Byte) (s : State) : (writeImg a v s).installed = s.installed := rfl
@[simp] theorem writeImg_p0 (a : Nat) (v : Byte) (s : State) : (writeImg a v s).p0 = s.p0 := rfl
@[simp] theorem writeImg_p1 (a : Nat) (v : Byte) (s : State) : (writeImg a v s).p1 = s.p1 := rfl
@[simp] theorem writeImg_we (a : Nat) (v : Byte) (s : State) : (writeImg a v s).we = s.we := rfl
@[simp] theorem writeImg_rp (a : Nat) (v : Byte) (s : State) : (writeImg a v s).rp = s.rp := rfl
@[simp] theorem writeImg_poc (a : Nat) (v : Byte) (s : State) : (writeImg a v s).poc = s.poc := rfl
@[simp] theorem writeImg_cb (a : Nat) (v : Byte) (s : State) : (writeImg a v s).cb = s.cb := rfl
@[simp] theorem writeImg_dh (a : Nat) (v : Byte) (s : State) : (writeImg a v s).dh = s.dh := rfl
@[simp] theorem writeImg_na (a : Nat) (v : Byte) (s : State) : (writeImg a v s).na = s.na := rfl
@[simp] theorem writeImg_wp (a : Nat) (v : Byte) (s : State) : (writeImg a v s).wp = s.wp := rfl
@[simp] theorem writeImg_loads (a : Nat) (v : Byte) (s : State) : (writeImg a v s).loads = s.loads := rfl
@[simp] theorem writeImg_sys (a : Nat) (v : Byte) (s : State) : (writeImg a v s).sys = s.sys := rfl
@[simp] theorem writeImg_pending (a : Nat) (v : Byte) (s : State) : (writeImg a v s).pending = s.pending := rfl
@[simp] theorem writeImg_now (a : Nat) (v : Byte) (s : State) : (writeImg a v s).now = s.now := rfl
@[simp] theorem writeImg_cur (a : Nat) (v : Byte) (s : State) : (writeImg a v s).cur = s.cur := rfl
@[simp] theorem writeImg_ret (a : Nat) (v : Byte) (s : State) : (writeImg a v s).ret = s.ret := rfl
@[simp] theorem writeImg_events (a : Nat) (v : Byte) (s : State) : (writeImg a v s).events = s.events := rfl

@[simp] theorem sysWrite_img (a : BitVec 16) (v : Byte) (s : State) : (sysWrite a v s).img = s.img := rfl
@[simp] theorem sysWrite_epoch (a : BitVec 16) (v : Byte) (s : State) : (sysWrite a v s).epoch = s.epoch := rfl
@[simp] theorem sysWrite_ready (a : BitVec 16) (v : Byte) (s : State) : (sysWrite a v s).ready = s.ready := rfl
@[simp] theorem sysWrite_installed (a : BitVec 16) (v : Byte) (s : State) : (sysWrite a v s).installed = s.installed := rfl
@[simp] theorem sysWrite_p0 (a : BitVec 16) (v : Byte) (s : State) : (sysWrite a v s).p0 = s.p0 := rfl
@[simp] theorem sysWrite_p1 (a : BitVec 16) (v : Byte) (s : State) : (sysWrite a v s).p1 = s.p1 := rfl
@[simp] theorem sysWrite_we (a : BitVec 16) (v : Byte) (s : State) : (sysWrite a v s).we = s.we := rfl
@[simp] theorem sysWrite_rp (a : BitVec 16) (v : Byte) (s : State) : (sysWrite a v s).rp = s.rp := rfl
@[simp] theorem sysWrite_poc (a : BitVec 16) (v : Byte) (s : State) : (sysWrite a v s).poc = s.poc := rfl
@[simp] theorem sysWrite_cb (a : BitVec 16) (v : Byte) (s : State) : (sysWrite a v s).cb = s.cb := rfl
@[simp] theorem sysWrite_dh (a : BitVec 16) (v : Byte) (s : State) : (sysWrite a v s).dh = s.dh := rfl
@[simp] theorem sysWrite_na (a : BitVec 16) (v : Byte) (s : State) : (sysWrite a v s).na = s.na := rfl
@[simp] theorem sysWrite_wp (a : BitVec 16) (v : Byte) (s : State) : (sysWrite a v s).wp = s.wp := rfl
@[simp] theorem sysWrite_loads (a : BitVec 16) (v : Byte) (s : State) : (sysWrite a v s).loads = s.loads := rfl
@[simp] theorem sysWrite_sys (a : BitVec 16) (v : Byte) (s : State) : (sysWrite a v s).sys = s.sys.store a v := rfl
@[simp] theorem sysWrite_pending (a : BitVec 16) (v : Byte) (s : State) : (sysWrite a v s).pending = s.pending := rfl
@[simp] theorem sysWrite_now (a : BitVec 16) (v : Byte) (s : State) : (sysWrite a v s).now = s.now := rfl
@[simp] theorem sysWrite_cur (a : BitVec 16) (v : Byte) (s : State) : (sysWrite a v s).cur = s.cur := rfl
@[simp] theorem sysWrite_ret (a : BitVec 16) (v : Byte) (s : State) : (sysWrite a v s).ret = s.ret := rfl
@[simp] theorem sysWrite_events (a : BitVec 16) (v : Byte) (s : State) : (sysWrite a v s).events = s.events ++ [Event.masterWrite a v] := rfl

@[simp] theorem applyConfig_img (v : Byte) (C : Cycles) (s : State) : (applyConfig v C s).img = s.img := rfl
@[simp] theorem applyConfig_epoch (v : Byte) (C : Cycles) (s : State) : (applyConfig v C s).epoch = s.epoch := rfl
@[simp] theorem applyConfig_ready (v : Byte) (C : Cycles) (s : State) : (applyConfig v C s).ready = s.ready := rfl
@[simp] theorem applyConfig_installed (v : Byte) (C : Cycles) (s : State) : (applyConfig v C s).installed = s.installed := rfl
@[simp] theorem applyConfig_p0 (v : Byte) (C : Cycles) (s : State) : (applyConfig v C s).p0 = (modeTable (cfgMode v)).1 := rfl
@[simp] theorem applyConfig_p1 (v : Byte) (C : Cycles) (s : State) : (applyConfig v C s).p1 = (modeTable (cfgMode v)).2 := rfl
@[simp] theorem applyConfig_we (v : Byte) (C : Cycles) (s : State) : (applyConfig v C s).we = cfgW v := rfl
@[simp] theorem applyConfig_rp (v : Byte) (C : Cycles) (s : State) : (applyConfig v C s).rp = !cfgP v := rfl
@[simp] theorem applyConfig_poc (v : Byte) (C : Cycles) (s : State) : (applyConfig v C s).poc = if cfgP v then s.poc else C := rfl
@[simp] theorem applyConfig_cb (v : Byte) (C : Cycles) (s : State) : (applyConfig v C s).cb = v.setWidth 5 := rfl
@[simp] theorem applyConfig_dh (v : Byte) (C : Cycles) (s : State) : (applyConfig v C s).dh = s.dh := rfl
@[simp] theorem applyConfig_na (v : Byte) (C : Cycles) (s : State) : (applyConfig v C s).na = s.na := rfl
@[simp] theorem applyConfig_wp (v : Byte) (C : Cycles) (s : State) : (applyConfig v C s).wp = s.wp := rfl
@[simp] theorem applyConfig_loads (v : Byte) (C : Cycles) (s : State) : (applyConfig v C s).loads = s.loads := rfl
@[simp] theorem applyConfig_sys (v : Byte) (C : Cycles) (s : State) : (applyConfig v C s).sys = s.sys := rfl
@[simp] theorem applyConfig_pending (v : Byte) (C : Cycles) (s : State) : (applyConfig v C s).pending = s.pending := rfl
@[simp] theorem applyConfig_now (v : Byte) (C : Cycles) (s : State) : (applyConfig v C s).now = s.now := rfl
@[simp] theorem applyConfig_cur (v : Byte) (C : Cycles) (s : State) : (applyConfig v C s).cur = s.cur := rfl
@[simp] theorem applyConfig_ret (v : Byte) (C : Cycles) (s : State) : (applyConfig v C s).ret = s.ret := rfl
@[simp] theorem applyConfig_events (v : Byte) (C : Cycles) (s : State) : (applyConfig v C s).events = s.events ++ [Event.bankChanged] := rfl

@[simp] theorem redrawImage_img (s : State) : (redrawImage s).img = [] := rfl
@[simp] theorem redrawImage_epoch (s : State) : (redrawImage s).epoch = s.epoch + 1 := rfl
@[simp] theorem redrawImage_ready (s : State) : (redrawImage s).ready = true := rfl
@[simp] theorem redrawImage_installed (s : State) : (redrawImage s).installed = s.installed := rfl
@[simp] theorem redrawImage_p0 (s : State) : (redrawImage s).p0 = s.p0 := rfl
@[simp] theorem redrawImage_p1 (s : State) : (redrawImage s).p1 = s.p1 := rfl
@[simp] theorem redrawImage_we (s : State) : (redrawImage s).we = s.we := rfl
@[simp] theorem redrawImage_rp (s : State) : (redrawImage s).rp = s.rp := rfl
@[simp] theorem redrawImage_poc (s : State) : (redrawImage s).poc = s.poc := rfl
@[simp] theorem redrawImage_cb (s : State) : (redrawImage s).cb = s.cb := rfl
@[simp] theorem redrawImage_dh (s : State) : (redrawImage s).dh = s.dh := rfl
@[simp] theorem redrawImage_na (s : State) : (redrawImage s).na = s.na := rfl
@[simp] theorem redrawImage_wp (s : State) : (redrawImage s).wp = s.wp := rfl
@[simp] theorem redrawImage_loads (s : State) : (redrawImage s).loads = s.loads := rfl
@[simp] theorem redrawImage_sys (s : State) : (redrawImage s).sys = s.sys := rfl
@[simp] theorem redrawImage_pending (s : State) : (redrawImage s).pending = s.pending := rfl
@[simp] theorem redrawImage_now (s : State) : (redrawImage s).now = s.now := rfl
@[simp] theorem redrawImage_cur (s : State) : (redrawImage s).cur = s.cur := rfl
@[simp] theorem redrawImage_ret (s : State) : (redrawImage s).ret = s.ret := rfl
@[simp] theorem redrawImage_events (s : State) : (redrawImage s).events = s.events := rfl

@[simp] theorem claimWindow_img (s : State) : (claimWindow s).img = s.img := rfl
@[simp] theorem claimWindow_epoch (s : State) : (claimWindow s).epoch = s.epoch := rfl
@[simp] theorem claimWindow_ready (s : State) : (claimWindow s).ready = s.ready := rfl
@[simp] theorem claimWindow_installed (s : State) : (claimWindow s).installed = true := rfl
@[simp] theorem claimWindow_p0 (s : State) : (claimWindow s).p0 = s.p0 := rfl
@[simp] theorem claimWindow_p1 (s : State) : (claimWindow s).p1 = s.p1 := rfl
@[simp] theorem claimWindow_we (s : State) : (claimWindow s).we = s.we := rfl
@[simp] theorem claimWindow_rp (s : State) : (claimWindow s).rp = s.rp := rfl
@[simp] theorem claimWindow_poc (s : State) : (claimWindow s).poc = s.poc := rfl
@[simp] theorem claimWindow_cb (s : State) : (claimWindow s).cb = s.cb := rfl
@[simp] theorem claimWindow_dh (s : State) : (claimWindow s).dh = s.dh := rfl
@[simp] theorem claimWindow_na (s : State) : (claimWindow s).na = s.na := rfl
@[simp] theorem claimWindow_wp (s : State) : (claimWindow s).wp = s.wp := rfl
@[simp] theorem claimWindow_loads (s : State) : (claimWindow s).loads = s.loads := rfl
@[simp] theorem claimWindow_sys (s : State) : (claimWindow s).sys = s.sys := rfl
@[simp] theorem claimWindow_pending (s : State) : (claimWindow s).pending = s.pending := rfl
@[simp] theorem claimWindow_now (s : State) : (claimWindow s).now = s.now := rfl
@[simp] theorem claimWindow_cur (s : State) : (claimWindow s).cur = s.cur := rfl
@[simp] theorem claimWindow_ret (s : State) : (claimWindow s).ret = s.ret := rfl
@[simp] theorem claimWindow_events (s : State) : (claimWindow s).events = s.events ++ (windowPages Config.busPageShift).map Event.setPageAccess := rfl

@[simp] theorem present_img (r : Request) (rest : List Request) (s : State) : (present r rest s).img = s.img := rfl
@[simp] theorem present_epoch (r : Request) (rest : List Request) (s : State) : (present r rest s).epoch = s.epoch := rfl
@[simp] theorem present_ready (r : Request) (rest : List Request) (s : State) : (present r rest s).ready = s.ready := rfl
@[simp] theorem present_installed (r : Request) (rest : List Request) (s : State) : (present r rest s).installed = s.installed := rfl
@[simp] theorem present_p0 (r : Request) (rest : List Request) (s : State) : (present r rest s).p0 = s.p0 := rfl
@[simp] theorem present_p1 (r : Request) (rest : List Request) (s : State) : (present r rest s).p1 = s.p1 := rfl
@[simp] theorem present_we (r : Request) (rest : List Request) (s : State) : (present r rest s).we = s.we := rfl
@[simp] theorem present_rp (r : Request) (rest : List Request) (s : State) : (present r rest s).rp = s.rp := rfl
@[simp] theorem present_poc (r : Request) (rest : List Request) (s : State) : (present r rest s).poc = s.poc := rfl
@[simp] theorem present_cb (r : Request) (rest : List Request) (s : State) : (present r rest s).cb = s.cb := rfl
@[simp] theorem present_dh (r : Request) (rest : List Request) (s : State) : (present r rest s).dh = s.dh := rfl
@[simp] theorem present_na (r : Request) (rest : List Request) (s : State) : (present r rest s).na = s.na := rfl
@[simp] theorem present_wp (r : Request) (rest : List Request) (s : State) : (present r rest s).wp = s.wp := rfl
@[simp] theorem present_loads (r : Request) (rest : List Request) (s : State) : (present r rest s).loads = s.loads := rfl
@[simp] theorem present_sys (r : Request) (rest : List Request) (s : State) : (present r rest s).sys = s.sys := rfl
@[simp] theorem present_pending (r : Request) (rest : List Request) (s : State) : (present r rest s).pending = rest := rfl
@[simp] theorem present_now (r : Request) (rest : List Request) (s : State) : (present r rest s).now = presentedInputs r s.now := rfl
@[simp] theorem present_cur (r : Request) (rest : List Request) (s : State) : (present r rest s).cur = s.cur := rfl
@[simp] theorem present_ret (r : Request) (rest : List Request) (s : State) : (present r rest s).ret = .nothing := rfl
@[simp] theorem present_events (r : Request) (rest : List Request) (s : State) : (present r rest s).events = [] := rfl

end Sys2Proof.Machine
end

