-- ==== Sys2Proof/Laws/Memory.lean ====
section
/-! SUPPORT. The bank array: reading after writing, and the canonical form that every memory operation keeps. -/

namespace Sys2Proof.Machine

/-! ## The list -/

@[simp] theorem Memory.lookup_insert_same (i : Nat) (v : Byte) (m : Memory) :
    Memory.lookup (Memory.insert i v m) i = some v := by
  induction m with
  | nil => simp [Memory.insert, Memory.lookup]
  | cons c m ih =>
    obtain ⟨a, w⟩ := c
    simp only [Memory.insert]
    split
    · simp [Memory.lookup]
    · split
      · simp [Memory.lookup]
      · rw [Memory.lookup, if_neg (by omega), ih]

theorem Memory.lookup_insert_other {i j : Nat} (v : Byte) (m : Memory) (h : j ≠ i) :
    Memory.lookup (Memory.insert i v m) j = Memory.lookup m j := by
  induction m with
  | nil => simp [Memory.insert, Memory.lookup, Ne.symm h]
  | cons c m ih =>
    obtain ⟨a, w⟩ := c
    simp only [Memory.insert]
    split
    · rw [Memory.lookup, if_neg (Ne.symm h)]
    · split
      · rename_i h1; subst h1; simp [Memory.lookup, Ne.symm h]
      · simp [Memory.lookup, ih]

theorem Memory.risingFrom_cons (lo a : Nat) (w : Byte) (m : Memory) :
    Memory.risingFrom lo ((a, w) :: m) = true ↔ lo ≤ a ∧ a < 6144 ∧ Memory.risingFrom (a + 1) m = true := by
  simp [Memory.risingFrom, and_assoc]

theorem Memory.risingFrom_insert {lo i : Nat} (v : Byte) (m : Memory) (hm : Memory.risingFrom lo m = true)
    (hlo : lo ≤ i) (hi : i < 6144) : Memory.risingFrom lo (Memory.insert i v m) = true := by
  induction m generalizing lo with
  | nil => simp [Memory.insert, Memory.risingFrom, hlo, hi]
  | cons c m ih =>
    obtain ⟨a, w⟩ := c
    rw [Memory.risingFrom_cons] at hm
    obtain ⟨h1, h2, h3⟩ := hm
    simp only [Memory.insert]
    split
    · rw [Memory.risingFrom_cons, Memory.risingFrom_cons]
      exact ⟨hlo, hi, by omega, h2, h3⟩
    · split
      · rename_i h4; subst h4; rw [Memory.risingFrom_cons]; exact ⟨h1, h2, h3⟩
      · rw [Memory.risingFrom_cons]; exact ⟨h1, h2, ih h3 (by omega)⟩

/-- Below its lower bound and from 6144 on, a rising list lists nothing. -/
theorem Memory.lookup_outside {lo j : Nat} (m : Memory) (hm : Memory.risingFrom lo m = true)
    (h : j < lo ∨ 6144 ≤ j) : Memory.lookup m j = none := by
  induction m generalizing lo with
  | nil => rfl
  | cons c m ih =>
    obtain ⟨a, w⟩ := c
    rw [Memory.risingFrom_cons] at hm
    rw [Memory.lookup, if_neg (by omega), ih hm.2.2 (by omega)]

/-- Two canonical memories that list the same bytes are the same list. -/
theorem Memory.ext_of_risingFrom {lo : Nat} {m n : Memory} (hm : Memory.risingFrom lo m = true)
    (hn : Memory.risingFrom lo n = true) (h : ∀ j, Memory.lookup m j = Memory.lookup n j) : m = n := by
  induction m generalizing lo n with
  | nil =>
    cases n with
    | nil => rfl
    | cons c n => have := h c.1; simp [Memory.lookup] at this
  | cons c m ih =>
    obtain ⟨a, w⟩ := c
    cases n with
    | nil => have := h a; simp [Memory.lookup] at this
    | cons d n =>
      obtain ⟨b, x⟩ := d
      rw [Memory.risingFrom_cons] at hm hn
      have hab : a = b := by
        rcases Nat.lt_trichotomy a b with hlt | heq | hgt
        · have h1 := h a
          rw [Memory.lookup, if_pos rfl, Memory.lookup, if_neg (by omega),
            Memory.lookup_outside n hn.2.2 (by omega)] at h1
          exact absurd h1 (by simp)
        · exact heq
        · have h1 := h b
          rw [Memory.lookup, if_neg (by omega), Memory.lookup_outside m hm.2.2 (by omega),
            Memory.lookup, if_pos rfl] at h1
          exact absurd h1 (by simp)
      subst hab
      have hw : w = x := by simpa [Memory.lookup] using h a
      subst hw
      have ht : m = n := by
        refine ih hm.2.2 hn.2.2 fun j => ?_
        have hj := h j
        by_cases hja : a = j
        · subst hja
          rw [Memory.lookup_outside m hm.2.2 (by omega), Memory.lookup_outside n hn.2.2 (by omega)]
        · simpa [Memory.lookup, hja] using hj
      rw [ht]

/-! ## Reading after writing one byte -/

@[simp] theorem imgByte_emit (e : Event) (s : State) (a : Nat) : imgByte (emit e s) a = imgByte s a := rfl

@[simp] theorem imgByte_returning (r : Ret) (s : State) (a : Nat) : imgByte (returning r s) a = imgByte s a := rfl

@[simp] theorem imgByte_sysWrite (x : BitVec 16) (v : Byte) (s : State) (a : Nat) :
    imgByte (sysWrite x v s) a = imgByte s a := rfl

@[simp] theorem imgByte_applyConfig (v : Byte) (C : Cycles) (s : State) (a : Nat) :
    imgByte (applyConfig v C s) a = imgByte s a := rfl

@[simp] theorem imgByte_claimWindow (s : State) (a : Nat) : imgByte (claimWindow s) a = imgByte s a := rfl

@[simp] theorem imgByte_present (r : Request) (rest : List Request) (s : State) (a : Nat) :
    imgByte (present r rest s) a = imgByte s a := rfl

/-- Three fields decide every byte of the bank array. -/
theorem imgByte_congr {s t : State} (h1 : s.img = t.img) (h2 : s.ready = t.ready) (h3 : s.epoch = t.epoch) (a : Nat) :
    imgByte s a = imgByte t a := by
  simp [imgByte, h1, h2, h3]

@[simp] theorem imgByte_writeImg_same (a : Nat) (v : Byte) (s : State) : imgByte (writeImg a v s) a = v := by
  simp [imgByte]

theorem imgByte_writeImg_other {a b : Nat} (v : Byte) (s : State) (h : b ≠ a) :
    imgByte (writeImg a v s) b = imgByte s b := by
  simp [imgByte, Memory.lookup_insert_other v s.img h]

theorem imgByte_writeImg (a b : Nat) (v : Byte) (s : State) :
    imgByte (writeImg a v s) b = if b = a then v else imgByte s b := by
  by_cases h : b = a
  · subst h; simp
  · rw [if_neg h, imgByte_writeImg_other v s h]

/-! ## Writing a run of bytes -/

/-- A run of bytes writes `img` only. -/
theorem writeBytes_eq (a : Nat) (l : List Byte) (s : State) :
    writeBytes a l s = { s with img := (writeBytes a l s).img } := by
  induction l generalizing a s with
  | nil => rfl
  | cons v vs ih => rw [writeBytes, ih (a + 1) (writeImg a v s)]; rfl

@[simp] theorem writeBytes_epoch (a : Nat) (l : List Byte) (s : State) : (writeBytes a l s).epoch = s.epoch := by
  rw [writeBytes_eq]

@[simp] theorem writeBytes_ready (a : Nat) (l : List Byte) (s : State) : (writeBytes a l s).ready = s.ready := by
  rw [writeBytes_eq]

@[simp] theorem writeBytes_loads (a : Nat) (l : List Byte) (s : State) : (writeBytes a l s).loads = s.loads := by
  rw [writeBytes_eq]

@[simp] theorem writeBytes_cur (a : Nat) (l : List Byte) (s : State) : (writeBytes a l s).cur = s.cur := by
  rw [writeBytes_eq]

@[simp] theorem writeBytes_events (a : Nat) (l : List Byte) (s : State) : (writeBytes a l s).events = s.events := by
  rw [writeBytes_eq]

@[simp] theorem writeBytes_pending (a : Nat) (l : List Byte) (s : State) : (writeBytes a l s).pending = s.pending := by
  rw [writeBytes_eq]

theorem imgByte_writeBytes_outside {a b : Nat} (l : List Byte) (s : State) (h : b < a ∨ a + l.length ≤ b) :
    imgByte (writeBytes a l s) b = imgByte s b := by
  induction l generalizing a s with
  | nil => rfl
  | cons v vs ih =>
    rw [List.length_cons] at h
    rw [writeBytes, ih _ (by omega), imgByte_writeImg_other v s (by omega)]

/-- Byte `a + k` of a run written at `a` is the run's byte `k`; every other byte stays. -/
theorem imgByte_writeBytes (a b : Nat) (l : List Byte) (s : State) :
    imgByte (writeBytes a l s) b = if a ≤ b ∧ b < a + l.length then l.getD (b - a) 0#8 else imgByte s b := by
  induction l generalizing a s with
  | nil => simp [writeBytes]
  | cons v vs ih =>
    rw [List.length_cons, writeBytes, ih]
    by_cases h1 : b = a
    · subst h1; simp
    · rw [imgByte_writeImg_other v s h1]
      by_cases h2 : a ≤ b ∧ b < a + (vs.length + 1)
      · have h3 : b - a = (b - (a + 1)) + 1 := by omega
        rw [if_pos (by omega), if_pos h2, h3, List.getD_cons_succ]
      · rw [if_neg (by omega), if_neg h2]

/-! ## The canonical form is kept -/

theorem wf_writeImg {a : Nat} (v : Byte) {s : State} (hs : Memory.wf s.img = true) (ha : a < 6144) :
    Memory.wf (writeImg a v s).img = true :=
  Memory.risingFrom_insert v s.img hs (Nat.zero_le a) ha

theorem wf_writeBytes {a : Nat} (l : List Byte) {s : State} (hs : Memory.wf s.img = true)
    (ha : a + l.length ≤ 6144) : Memory.wf (writeBytes a l s).img = true := by
  induction l generalizing a s with
  | nil => exact hs
  | cons v vs ih =>
    rw [List.length_cons] at ha
    exact ih (wf_writeImg v hs (by omega)) (by omega)

theorem wf_redrawImage (s : State) : Memory.wf (redrawImage s).img = true := rfl

/-- Bank 3 of a canonical bank array is what the injection left (R22, R207). -/
theorem imgByte_rom {s : State} (hs : Memory.wf s.img = true) {a : Nat} (ha : 6144 ≤ a) :
    imgByte s a = imgBase s.ready s.epoch a := by
  simp [imgByte, Memory.lookup_outside s.img hs (.inr ha)]

theorem imgIndex_lt {b : BankIx} (o : BitVec 11) (h : b ≠ 3#2) : imgIndex b o < 6144 := by
  have h1 : b.toNat ≠ 3 := fun h2 => h (BitVec.eq_of_toNat_eq h2)
  have h2 := b.isLt
  have h3 := o.isLt
  unfold imgIndex
  omega

theorem imgIndex_lt_8192 (b : BankIx) (o : BitVec 11) : imgIndex b o < 8192 := by
  have h2 := b.isLt
  have h3 := o.isLt
  unfold imgIndex
  omega

/-- A copied page lies in RAM (R56, R172). -/
theorem pageDest_le {d : Byte} (h : descBank d ≠ 3#2) : pageDest d + 256 ≤ 6144 := by
  have h1 : (descBank d).toNat ≠ 3 := fun h2 => h (BitVec.eq_of_toNat_eq h2)
  have h2 := (descBank d).isLt
  have h3 := (descPage d).isLt
  unfold pageDest
  omega

theorem pageSource_length_le (loads : List Byte) (i j : Nat) : (pageSource loads i j).length ≤ 256 := by
  unfold pageSource; exact List.length_take_le _ _

/-- Every unit of the store has its whole 8448 bytes (R161). -/
theorem unit_fits {loads : List Byte} {i : Nat} (h : i < unitCount loads) :
    i * unitSize + unitSize ≤ loads.length := by
  have h1 : (i + 1) * unitSize ≤ loads.length :=
    (Nat.mul_le_mul_right _ h).trans (Nat.div_mul_le_self _ _)
  rwa [Nat.succ_mul] at h1

theorem pageSource_length {loads : List Byte} {i j : Nat} (hi : i < unitCount loads) (hj : j < 32) :
    (pageSource loads i j).length = 256 := by
  have h1 := unit_fits hi
  have h2 : unitSize = 8448 := rfl
  unfold pageSource
  rw [List.length_take, List.length_drop]
  omega

theorem header_length {loads : List Byte} {i : Nat} (hi : i < unitCount loads) : (header loads i).length = 256 := by
  have h1 := unit_fits hi
  have h2 : unitSize = 8448 := rfl
  unfold header
  rw [List.length_take, List.length_drop]
  omega

theorem pageCount_le (loads : List Byte) (i : Nat) : pageCount loads i ≤ 32 := Nat.min_le_right _ _

end Sys2Proof.Machine
end

