-- ==== Sys2Proof/Laws/Ops.lean ====
section
/-! SUPPORT. What each shared operation can do, said once: which fields it writes, and that it keeps the canonical form. -/

namespace Sys2Proof.Machine

/-! ## Accesses -/

/-- An access class answers a next state exactly inside the window after a reset (R51, R283, R250). -/
theorem onAccess_next {a : WindowAddr} {f : State → State} {s : State} (ha : inWindow a = true) (hs : s.ready = true) :
    onAccess a f s = .next (f s) := by
  simp [onAccess, ha, hs]

theorem onAccess_outside {a : WindowAddr} {f : State → State} {s : State} (ha : inWindow a = false) :
    onAccess a f s = .refused .outsideWindow := by
  simp [onAccess, ha]

theorem onAccess_beforeReset {a : WindowAddr} {f : State → State} {s : State} (ha : inWindow a = true)
    (hs : s.ready = false) : onAccess a f s = .refused .beforeReset := by
  simp [onAccess, ha, hs]

theorem inWindow_armAddr (low : Byte) : inWindow (armAddr low) = true := by
  revert low; decide

@[simp] theorem andThen_next (s : State) (f : State → Result) : andThen (.next s) f = f s := rfl

/-- A commit's write touches `img` only. -/
theorem commitWrite_eq (a : WindowAddr) (s : State) : commitWrite a s = { s with img := (commitWrite a s).img } := by
  unfold commitWrite; split <;> rfl

/-- What a commit's write leaves at every index (R106, R107). -/
theorem imgByte_commitWrite (a : WindowAddr) (s : State) (x : Nat) :
    imgByte (commitWrite a s) x =
      if (resolve a s).1 ≠ 3#2 ∧ x = targetIndex a s then s.dh else imgByte s x := by
  unfold commitWrite
  by_cases h : (resolve a s).1 = 3#2
  · simp [h]
  · simp [h, imgByte_writeImg]

theorem wf_commitWrite (a : WindowAddr) {s : State} (hs : Memory.wf s.img = true) :
    Memory.wf (commitWrite a s).img = true := by
  unfold commitWrite
  split
  · exact hs
  · rename_i h; exact wf_writeImg _ hs (imgIndex_lt _ h)

/-! ## Configuration -/

/-- What ApplyConfig leaves is coherent (R23, R140). -/
theorem coherent_applyConfig (v : Byte) (C : Cycles) (s : State) :
    ConfigCoherent (applyConfig v C s).p0 (applyConfig v C s).p1 (applyConfig v C s).we (applyConfig v C s).rp
      (applyConfig v C s).cb := by
  simp only [applyConfig_p0, applyConfig_p1, applyConfig_we, applyConfig_rp, applyConfig_cb, ConfigCoherent]
  refine ⟨?_, ?_, ?_⟩ <;> (clear C s; revert v; decide)

/-! ## The load engine -/

/-- A page touches `img`, the cursor and the events only (R163, R175). -/
theorem processPage_eq (d : Byte) (s : State) :
    processPage d s =
      { s with img := (processPage d s).img, cur := (processPage d s).cur, events := (processPage d s).events } := by
  unfold processPage
  dsimp only
  split <;> split <;> (try rw [writeBytes_eq]) <;> rfl

theorem runPages_eq (k : Nat) (s : State) :
    runPages k s = { s with img := (runPages k s).img, cur := (runPages k s).cur, events := (runPages k s).events } := by
  induction k generalizing s with
  | zero => rfl
  | succ k ih => rw [runPages, ih, processPage_eq]

/-- A load touches `img`, the scratch bytes, the cursor and the events only (R175). -/
theorem loadUnit_eq (i : Nat) (s : State) :
    loadUnit i s = { s with
      img := (loadUnit i s).img
      sys := (loadUnit i s).sys
      cur := (loadUnit i s).cur
      events := (loadUnit i s).events } := by
  unfold loadUnit
  dsimp only
  rw [runPages_eq]
  split <;> rfl

theorem loadIntoRAM_eq (id : Byte) (s : State) :
    loadIntoRAM id s = { s with
      img := (loadIntoRAM id s).img
      sys := (loadIntoRAM id s).sys
      cur := (loadIntoRAM id s).cur
      events := (loadIntoRAM id s).events } := by
  unfold loadIntoRAM
  split
  · exact loadUnit_eq _ s
  · rfl

/-- After a load the load engine is idle again. -/
theorem loadIntoRAM_cur (id : Byte) {s : State} (hs : s.cur = LoadCursor.idle) :
    (loadIntoRAM id s).cur = LoadCursor.idle := by
  unfold loadIntoRAM
  split
  · rfl
  · exact hs

theorem wf_processPage (d : Byte) {s : State} (hs : Memory.wf s.img = true) :
    Memory.wf (processPage d s).img = true := by
  have key : ∀ t : State, t.img = s.img → Memory.wf
      (if descBank d = 3#2 then t
        else writeBytes (pageDest d) (pageSource s.loads s.cur.unit s.cur.page) t).img = true := by
    intro t ht
    rw [← ht] at hs
    split
    · exact hs
    · rename_i h
      have h1 := pageSource_length_le s.loads s.cur.unit s.cur.page
      have h2 := pageDest_le h
      exact wf_writeBytes _ hs (by omega)
  unfold processPage
  dsimp only
  exact key _ (by split <;> rfl)

theorem wf_runPages (k : Nat) {s : State} (hs : Memory.wf s.img = true) : Memory.wf (runPages k s).img = true := by
  induction k generalizing s with
  | zero => exact hs
  | succ k ih => exact ih (wf_processPage _ hs)

theorem wf_loadIntoRAM (id : Byte) {s : State} (hs : Memory.wf s.img = true) :
    Memory.wf (loadIntoRAM id s).img = true := by
  unfold loadIntoRAM
  split
  · unfold loadUnit
    dsimp only
    simp only [emit_img, sysWrite_img]
    refine wf_runPages _ ?_
    dsimp only
    split <;> exact hs
  · exact hs

/-! ## Construction -/

/-- `S = max(S_in, 8448)` (R160). -/
theorem length_constructStore (image : List Byte) : (constructStore image).length = max image.length minStore := by
  unfold constructStore minStore
  split <;> simp <;> omega

theorem wf_restoreState (v : Saved) {s : State} (hs : Memory.wf s.img = true) :
    Memory.wf (restoreState v s).img = true := by
  refine wf_writeBytes _ hs ?_
  have := List.length_take_le 6144 v.ram
  omega

/-! ## Save-states -/

theorem getD_map_range (n : Nat) (f : Nat → Byte) {a : Nat} (h : a < n) :
    ((List.range n).map f).getD a 0#8 = f a := by
  simp [List.getD, h]

theorem getD_take (l : List Byte) {n a : Nat} (h : a < n) : (l.take n).getD a 0#8 = l.getD a 0#8 := by
  simp [List.getD, h]

theorem saveState_ram (s : State) : (saveState s).ram = (List.range 6144).map (imgByte s) := by
  unfold saveState; dsimp only

theorem length_saveState_ram (s : State) : (saveState s).ram.length = 6144 := by
  rw [saveState_ram, List.length_map, List.length_range]

/-- A save-state's RAM byte is the bank array's (R229). -/
theorem saveState_ram_getD (s : State) {a : Nat} (h : a < 6144) : (saveState s).ram.getD a 0#8 = imgByte s a := by
  rw [saveState_ram, getD_map_range _ _ h]

@[simp] theorem saveState_p0 (s : State) : (saveState s).p0 = s.p0 := by unfold saveState; dsimp only
@[simp] theorem saveState_p1 (s : State) : (saveState s).p1 = s.p1 := by unfold saveState; dsimp only
@[simp] theorem saveState_we (s : State) : (saveState s).we = s.we := by unfold saveState; dsimp only
@[simp] theorem saveState_rp (s : State) : (saveState s).rp = s.rp := by unfold saveState; dsimp only
@[simp] theorem saveState_poc (s : State) : (saveState s).poc = s.poc := by unfold saveState; dsimp only
@[simp] theorem saveState_cb (s : State) : (saveState s).cb = s.cb := by unfold saveState; dsimp only
@[simp] theorem saveState_dh (s : State) : (saveState s).dh = s.dh := by unfold saveState; dsimp only
@[simp] theorem saveState_na (s : State) : (saveState s).na = s.na := by unfold saveState; dsimp only
@[simp] theorem saveState_wp (s : State) : (saveState s).wp = s.wp := by unfold saveState; dsimp only

@[simp] theorem restoreState_p0 (v : Saved) (s : State) : (restoreState v s).p0 = v.p0 := by unfold restoreState emit; dsimp only
@[simp] theorem restoreState_p1 (v : Saved) (s : State) : (restoreState v s).p1 = v.p1 := by unfold restoreState emit; dsimp only
@[simp] theorem restoreState_we (v : Saved) (s : State) : (restoreState v s).we = v.we := by unfold restoreState emit; dsimp only
@[simp] theorem restoreState_rp (v : Saved) (s : State) : (restoreState v s).rp = v.rp := by unfold restoreState emit; dsimp only
@[simp] theorem restoreState_poc (v : Saved) (s : State) : (restoreState v s).poc = v.poc := by unfold restoreState emit; dsimp only
@[simp] theorem restoreState_cb (v : Saved) (s : State) : (restoreState v s).cb = v.cb := by unfold restoreState emit; dsimp only
@[simp] theorem restoreState_dh (v : Saved) (s : State) : (restoreState v s).dh = v.dh := by unfold restoreState emit; dsimp only
@[simp] theorem restoreState_na (v : Saved) (s : State) : (restoreState v s).na = v.na := by unfold restoreState emit; dsimp only
@[simp] theorem restoreState_wp (v : Saved) (s : State) : (restoreState v s).wp = v.wp := by unfold restoreState emit; dsimp only
@[simp] theorem restoreState_loads (v : Saved) (s : State) : (restoreState v s).loads = s.loads := by
  unfold restoreState emit; dsimp only; exact writeBytes_loads _ _ _
@[simp] theorem restoreState_ready (v : Saved) (s : State) : (restoreState v s).ready = s.ready := by
  unfold restoreState emit; dsimp only; exact writeBytes_ready _ _ _
@[simp] theorem restoreState_epoch (v : Saved) (s : State) : (restoreState v s).epoch = s.epoch := by
  unfold restoreState emit; dsimp only; exact writeBytes_epoch _ _ _
@[simp] theorem restoreState_pending (v : Saved) (s : State) : (restoreState v s).pending = s.pending := by
  unfold restoreState emit; dsimp only; exact writeBytes_pending _ _ _
@[simp] theorem restoreState_cur (v : Saved) (s : State) : (restoreState v s).cur = s.cur := by
  unfold restoreState emit; dsimp only; exact writeBytes_cur _ _ _
@[simp] theorem restoreState_events (v : Saved) (s : State) : (restoreState v s).events = s.events ++ [.bankChanged] := by
  unfold restoreState emit; dsimp only; rw [writeBytes_events]

/-- What a restore leaves at every index: the saved RAM bytes, and everything else as before (R229). -/
theorem imgByte_restoreState (v : Saved) (s : State) (a : Nat) :
    imgByte (restoreState v s) a = if a < min 6144 v.ram.length then v.ram.getD a 0#8 else imgByte s a := by
  have h1 : imgByte (restoreState v s) a = imgByte (writeBytes 0 (v.ram.take 6144) s) a := rfl
  rw [h1, imgByte_writeBytes, List.length_take]
  by_cases h : a < min 6144 v.ram.length
  · rw [if_pos (by omega), if_pos h, Nat.sub_zero, getD_take _ (by omega)]
  · rw [if_neg (by omega), if_neg h]

/-! ## The BIOS parameters meet the preconditions of R200 -/

theorem stubLen_le : Config.stubLen ≤ 2044 := by
  have := Nat.mod_lt Config.stubLenRaw (show 0 < 2043 by omega)
  unfold Config.stubLen
  omega

theorem two_le_stubLen : 2 ≤ Config.stubLen := Nat.le_add_right _ _

theorem fastbootOffset_lt : Config.fastbootOffset < Config.stubLen :=
  Nat.mod_lt _ (by have := two_le_stubLen; omega)

theorem accOffset_lt : Config.accOffset < Config.stubLen :=
  Nat.mod_lt _ (by have := two_le_stubLen; omega)

theorem accOffset_ne_fastbootOffset : Config.accOffset ≠ Config.fastbootOffset := by
  have h1 := two_le_stubLen
  have h2 := fastbootOffset_lt
  have h3 := Nat.mod_lt Config.accOffsetRaw (show 0 < Config.stubLen - 1 by omega)
  unfold Config.accOffset
  generalize Config.accOffsetRaw % (Config.stubLen - 1) = r at *
  generalize Config.fastbootOffset = f at *
  generalize Config.stubLen = n at *
  intro h
  rcases Nat.lt_or_ge (f + 1 + r) n with hlt | hge
  · rw [Nat.mod_eq_of_lt hlt] at h; omega
  · rw [Nat.mod_eq_sub_mod hge, Nat.mod_eq_of_lt (by omega)] at h; omega

end Sys2Proof.Machine
end

