-- ==== Sys2Proof/Laws/Access.lean ====
section
/-! SUPPORT. The gate's conditions, the multiplexer and ApplyConfig in the terms of Safety.lean; the window address of a bus address; a run of steps one step at a time. -/

namespace Sys2Proof.Machine

/-! ## The gate (R103, R104, R106) -/

theorem gateExpired_eq (s : State) : gateExpired s = decide (s.wp = true ∧ s.now.D > s.na + 5#32) := by
  unfold gateExpired gateTarget
  rw [BitVec.ult_eq_decide]
  cases s.wp <;> simp [BitVec.lt_def]

theorem mayArm_eq (s : State) : mayArm s = decide (s.we = false ∨ s.wp = false) := by
  unfold mayArm
  cases s.we <;> cases s.wp <;> simp

theorem commitDue_eq (s : State) :
    commitDue s = decide (s.we = true ∧ s.wp = true ∧ s.now.D = s.na + 5#32) := by
  unfold commitDue gateTarget
  cases s.we <;> cases s.wp <;> simp

/-! ## The multiplexer (R52, R53) -/

theorem windowBank_eq_backingBank (a : WindowAddr) (s : State) : windowBank a s = backingBank a s := by
  unfold windowBank backingBank
  have h := windowAddr_bit11 a
  by_cases h1 : a.getLsbD 11 = true
  · have h2 := h.mp h1
    rw [if_pos h1, if_neg (by omega)]
  · have h2 := (not_congr h).mp h1
    rw [if_neg h1, if_pos (by omega)]

theorem targetIndex_eq_backingIndex (a : WindowAddr) (s : State) : targetIndex a s = backingIndex a s := by
  unfold targetIndex resolve imgIndex backingIndex
  simp only [windowBank_eq_backingBank, BitVec.toNat_setWidth]

/-! ## Window addresses -/

theorem toNat_windowAddr (addr : BitVec 16) : (addr.setWidth 13).toNat = addr.toNat % 8192 := by simp

theorem windowAddr_eq_iff (addr : BitVec 16) {n : Nat} (hn : n < 8192) :
    addr.setWidth 13 = BitVec.ofNat 13 n ↔ addr.toNat % 8192 = n := by
  constructor
  · intro h
    have h1 := congrArg BitVec.toNat h
    simp only [BitVec.toNat_setWidth, BitVec.toNat_ofNat] at h1
    omega
  · intro h
    apply BitVec.eq_of_toNat_eq
    simp only [BitVec.toNat_setWidth, BitVec.toNat_ofNat]
    omega

/-- The operand of an arming access gives back its address (R104). -/
theorem armAddr_low {a : WindowAddr} (h12 : a.getLsbD 12 = true) (h : a.toNat / 256 % 16 = 0) :
    armAddr (a.setWidth 8) = a := by
  have h1 := (windowAddr_bit12 a).mp h12
  have h2 := a.isLt
  have h3 : a.extractLsb' 8 5 = 0b10000#5 := by
    apply BitVec.eq_of_toNat_eq
    rw [windowAddr_high, show (0b10000#5).toNat = 16 from rfl]
    omega
  unfold armAddr
  conv_rhs => rw [windowAddr_split a, h3]

/-! ## ApplyConfig (R140) -/

theorem applyConfig_eq_configured (v : Byte) (C : Cycles) (s : State) : applyConfig v C s = configured v C s := by
  have h : ∀ v : Byte, v.setWidth 5 = BitVec.ofNat 5 (v.toNat % 32) ∧ (!cfgP v) = decide (v.toNat % 2 = 0) ∧
      cfgW v = decide (v.toNat / 2 % 2 = 1) ∧ (modeTable (cfgMode v)).1 = pagingP0.getD (v.toNat / 4 % 8) 0#2 ∧
      (modeTable (cfgMode v)).2 = pagingP1.getD (v.toNat / 4 % 8) 0#2 := by decide
  obtain ⟨h1, h2, h3, h4, h5⟩ := h v
  have h6 : (if cfgP v then s.poc else C) = if v.toNat % 2 = 0 then C else s.poc := by
    by_cases h7 : v.toNat % 2 = 0 <;> simp [h7] at h2 <;> simp [h7, h2]
  unfold applyConfig configured emit
  rw [h1, h2, h3, h4, h5, h6]

/-! ## A run -/

/-- A run of `n + 1` steps that ends in a next state is a step and a run of `n`. -/
theorem run_succ_next {M : Host.Core} {n : Nat} {s t : M.State} (h : M.run (n + 1) s = .next t) :
    ∃ u, M.step s = .next u ∧ M.run n u = .next t := by
  rw [Host.Core.run] at h
  cases hq : M.step s with
  | next u => rw [hq] at h; exact ⟨u, rfl, h⟩
  | fault e => rw [hq] at h; cases h
  | refused e => rw [hq] at h; cases h

end Sys2Proof.Machine
end

