-- ==== Sys2Proof/Laws/Load.lean ====
section
/-! SUPPORT. The load engine in the terms of Safety.lean: fields of the header and pages as bytes of the store, and checksums as sums of natural numbers. -/

namespace Sys2Proof.Machine

theorem getD_take_drop (l : List Byte) (b : Nat) {n k : Nat} (h : k < n) :
    ((l.drop b).take n).getD k 0#8 = l.getD (b + k) 0#8 := by
  simp [List.getD, h]

/-- Header byte `k` of unit `i` is the store's byte at `i*8448 + 8192 + k` (R76, R162). -/
theorem headerByte_eq (l : List Byte) (i : Nat) {k : Nat} (h : k < 256) :
    headerByte l i k = storeByte l (i * 8448 + 8192 + k) := getD_take_drop _ _ h

/-- Source byte `k` of page `j` of unit `i` is the store's byte at `i*8448 + j*256 + k` (R169). -/
theorem pageSource_getD (l : List Byte) (i j : Nat) {k : Nat} (h : k < 256) :
    (pageSource l i j).getD k 0#8 = storeByte l (i * 8448 + j * 256 + k) := getD_take_drop _ _ h

theorem pageDescriptor_eq (l : List Byte) (i : Nat) {j : Nat} (h : j < 32) :
    pageDescriptor l i j = storedDescriptor l i j := by
  unfold pageDescriptor storedDescriptor
  rw [headerByte_eq _ _ (by omega), Nat.add_assoc (i * 8448 + 8192) 16 j]

theorem pageCount_eq (l : List Byte) (i : Nat) : pageCount l i = storedCount l i := by
  unfold pageCount storedCount
  rw [headerByte_eq _ _ (by omega)]

/-- Where a descriptor's page goes, and when it is not copied (R78, R163, R172). -/
theorem pageDest_eq (d : Byte) : pageDest d = descriptorDest d ∧ (descBank d = 3#2 ↔ d.toNat % 4 = 3) := by
  revert d; decide

/-- A copied page lies in RAM (R56, R172). -/
theorem pageCovers_lt {l : List Byte} {i j a : Nat} (h : PageCovers l i j a) : a < 6144 := by
  unfold PageCovers descriptorDest at h
  omega

/-- The search for a unit is R164's. -/
theorem findUnit_eq_some (l : List Byte) (id : Byte) (i : Nat) : findUnit l id = some i ↔ FirstUnit l id i := by
  unfold findUnit FirstUnit
  rw [List.find?_range_eq_some]
  simp only [loadNumber, headerByte_eq _ _ (show 5 < 256 by omega), decide_eq_true_eq, List.mem_range, unitCount,
    unitSize]
  constructor
  · rintro ⟨h1, h2, h3⟩; exact ⟨h2, h1, fun i' h => by simpa using h3 i' h⟩
  · rintro ⟨h1, h2, h3⟩; exact ⟨h2, h1, fun i' h => by simpa using h3 i' h⟩

theorem findUnit_eq_none {l : List Byte} {id : Byte} (h : ∀ i, ¬ FirstUnit l id i) : findUnit l id = none := by
  cases hf : findUnit l id with
  | none => rfl
  | some i => exact absurd ((findUnit_eq_some l id i).mp hf) (h i)

/-! ## Checksums (R10) -/

theorem sum8_toNat (l : List Byte) : (sum8 l).toNat = (l.map BitVec.toNat).sum % 256 := by
  induction l with
  | nil => rfl
  | cons b l ih => simp [sum8, BitVec.toNat_add, ih]

theorem eq_map_range {l : List Byte} {n : Nat} (h : l.length = n) : l = (List.range n).map fun k => l.getD k 0#8 := by
  subst h
  apply List.ext_getElem
  · simp
  · intro i h1 h2; simp [List.getD, List.getElem?_eq_getElem h1]

/-- The header sum of R166 over the store's bytes. -/
theorem sum8_header {l : List Byte} {i : Nat} (h : i < unitCount l) :
    (sum8 ((header l i).take 8)).toNat = storedHeaderSum l i := by
  have hl := header_length h
  rw [sum8_toNat]
  unfold storedHeaderSum
  congr 2
  rw [eq_map_range (l := (header l i).take 8) (n := 8) (by simp [hl]), List.map_map]
  apply List.map_congr_left
  intro k hk
  simp only [List.mem_range] at hk
  dsimp only [Function.comp]
  have h1 : ((header l i).take 8).getD k 0#8 = headerByte l i k := by
    unfold headerByte; simp [List.getD, hk]
  rw [h1, headerByte_eq _ _ (by omega)]

/-- The page sum of R170 over the store's bytes. -/
theorem sum8_page {l : List Byte} {i j : Nat} (d : Byte) (h : i < unitCount l) (hj : j < 32) :
    (sum8 (pageSource l i j ++ [d, pageComplement l i j])).toNat =
      (((List.range 256).map fun k => (storeByte l (i * 8448 + j * 256 + k)).toNat).sum + d.toNat +
        (storeByte l (i * 8448 + 8192 + 64 + j)).toNat) % 256 := by
  have h1 : (pageSource l i j).map BitVec.toNat =
      (List.range 256).map fun k => (storeByte l (i * 8448 + j * 256 + k)).toNat := by
    conv_lhs => rw [eq_map_range (pageSource_length h hj), List.map_map]
    apply List.map_congr_left
    intro k hk
    simp only [List.mem_range] at hk
    dsimp only [Function.comp]
    rw [pageSource_getD _ _ _ hk]
  rw [sum8_toNat, List.map_append, h1, List.sum_append]
  unfold pageComplement
  rw [headerByte_eq _ _ (by omega), Nat.add_assoc (i * 8448 + 8192) 64 j]
  simp [Nat.add_assoc]

end Sys2Proof.Machine
end

