-- ==== Sys2Proof/Laws/PerInstr.lean ====
section
/-! SUPPORT. Statements about every instruction, one lemma per constructor. -/

namespace Sys2Proof.Laws.EncodeFits

/-- The word of an instruction has no more bits than its format (R71, R74, R78, R79). -/
def Statement (i : Instr) : Prop := encode i < 2 ^ i.format.bits

theorem accLoad : Statement .accLoad := (accessWord .peek 0x1850#13).isLt

theorem accExpire (k : Kind) (a : WindowAddr) : Statement (.accExpire k a) := (accessWord k a).isLt

theorem accArm (k : Kind) (low : Byte) : Statement (.accArm k low) := (accessWord k (0b10000#5 ++ low)).isLt

theorem accConfig (k : Kind) : Statement (.accConfig k) := (accessWord k 0x1FF8#13).isLt

theorem accCommit (k : Kind) (a : WindowAddr) : Statement (.accCommit k a) := (accessWord k a).isLt

theorem peekData (a : WindowAddr) : Statement (.peekData a) := (accessWord .peek a).isLt

theorem pokeEnd (a : WindowAddr) : Statement (.pokeEnd a) := (accessWord .poke a).isLt

theorem cfgMode0 (g : BitVec 3) (w p : Bool) : Statement (.cfgMode0 g w p) := (configByte g 0#3 w p).isLt

theorem cfgMode1 (g : BitVec 3) (w p : Bool) : Statement (.cfgMode1 g w p) := (configByte g 1#3 w p).isLt

theorem cfgMode2 (g : BitVec 3) (w p : Bool) : Statement (.cfgMode2 g w p) := (configByte g 2#3 w p).isLt

theorem cfgMode3 (g : BitVec 3) (w p : Bool) : Statement (.cfgMode3 g w p) := (configByte g 3#3 w p).isLt

theorem cfgMode4 (g : BitVec 3) (w p : Bool) : Statement (.cfgMode4 g w p) := (configByte g 4#3 w p).isLt

theorem cfgMode5 (g : BitVec 3) (w p : Bool) : Statement (.cfgMode5 g w p) := (configByte g 5#3 w p).isLt

theorem cfgMode6 (g : BitVec 3) (w p : Bool) : Statement (.cfgMode6 g w p) := (configByte g 6#3 w p).isLt

theorem cfgMode7 (g : BitVec 3) (w p : Bool) : Statement (.cfgMode7 g w p) := (configByte g 7#3 w p).isLt

theorem descBank0 (g q : BitVec 3) : Statement (.descBank0 g q) := (descriptorByte g q 0#2).isLt

theorem descBank1 (g q : BitVec 3) : Statement (.descBank1 g q) := (descriptorByte g q 1#2).isLt

theorem descBank2 (g q : BitVec 3) : Statement (.descBank2 g q) := (descriptorByte g q 2#2).isLt

theorem descRom (g q : BitVec 3) : Statement (.descRom g q) := (descriptorByte g q 3#2).isLt

theorem hostInstall : Statement .hostInstall := by unfold Statement; decide

theorem hostReset : Statement .hostReset := by unfold Statement; decide

theorem hostSetbank : Statement .hostSetbank := by unfold Statement; decide

theorem hostCurrentbank : Statement .hostCurrentbank := by unfold Statement; decide

theorem hostBankcount : Statement .hostBankcount := by unfold Statement; decide

theorem hostPatch : Statement .hostPatch := by unfold Statement; decide

theorem hostRawimage : Statement .hostRawimage := by unfold Statement; decide

theorem hostOnsystemcyclesreset : Statement .hostOnsystemcyclesreset := by unfold Statement; decide

theorem hostConstruct : Statement .hostConstruct := by unfold Statement; decide

end Sys2Proof.Laws.EncodeFits
end

