-- ==== Sys2Proof/Tests/Slice0.lean ====
section
/-! SUPPORT. The model's own tests: ill-formed terms that WellFormed refuses, words written out from the encodings, single steps with results from spec/95_test_vectors.md, and for every obligation with hypotheses a witness that meets them. -/

namespace Sys2Proof.Tests

open Sys2Proof Sys2Proof.Machine

/-! ## Bytes of a store that is put together -/

theorem storeByte_append_right (a b : List Byte) {n k : Nat} (h : n = a.length + k) :
    storeByte (a ++ b) n = storeByte b k := by
  subst h
  unfold storeByte
  rw [List.getD_append_right _ _ _ _ (Nat.le_add_right _ _), Nat.add_sub_cancel_left]

theorem storeByte_append_left (a b : List Byte) {k : Nat} (h : k < a.length) :
    storeByte (a ++ b) k = storeByte a k := List.getD_append _ _ _ _ h

/-! ## States -/

/-- The header of unit U7 (spec/95, Notation). -/
def headerU7 : List Byte :=
  [0x00#8, 0xF0#8, 0x0D#8, 0x01#8, 0x50#8, 0x07#8] ++ List.replicate 10 0#8 ++ [0x00#8] ++ List.replicate 47 0#8 ++
    [0x55#8] ++ List.replicate 191 0#8

/-- Unit U7 (spec/95, Notation). -/
@[irreducible] def unitU7 : List Byte := List.replicate 8192 0xAA#8 ++ headerU7

theorem length_headerU7 : headerU7.length = 256 := by decide +kernel

theorem length_unitU7 : unitU7.length = 8448 := by
  unfold unitU7
  rw [List.length_append, List.length_replicate, length_headerU7]

theorem header_unitU7 {n k : Nat} (h : n = 8192 + k) : storeByte unitU7 n = storeByte headerU7 k := by
  unfold unitU7
  exact storeByte_append_right _ _ (by rw [List.length_replicate]; exact h)

/-- U7 is unit 0, with id 7. -/
theorem firstUnit_unitU7 : FirstUnit unitU7 0x07#8 0 :=
  ⟨by rw [length_unitU7]; decide, by rw [header_unitU7 (k := 5) rfl]; decide, fun i' h => absurd h (Nat.not_lt_zero i')⟩

/-- The reset state S0 of spec/95 with `SYS[$80]` = 7, and the given store. -/
def stateS0 (loads : List Byte) : State :=
  { State.reset with
    poc := 0#64, loads := loads, sys := ⟨0x07#8, 0#8, 0#8⟩, now := ⟨0#32, 0#64, 0, []⟩, events := [] }

theorem stateS0_loads (l : List Byte) : (stateS0 l).loads = l := rfl

/-- The start of vectors G4 to G20: `P0/P1` = 2/0, `WE` = 1, `WP` = 1, `DH` = 0x11, `NA` as given, with known bytes at 0x0020 and 0x1022. -/
def stateG (na : Count) : State :=
  { stateS0 [] with
    p0 := 2#2, p1 := 0#2, we := true, wp := true, dh := 0x11#8, na := na, img := [(0x20, 0x99#8), (0x1022, 0x77#8)] }

/-- A view of the state after one step on the request. -/
def after {β : Type} (s : State) (r : Request) (view : State → β) : Option β :=
  match step { s with pending := [r] } with
  | .next t => some (view t)
  | .fault _ => none
  | .refused _ => none

/-- `R $addr D=d`. -/
def peek (addr : BitVec 16) (d : Count) : Request := .access .peek addr 0#8 d 0#64

/-- `W $addr,$v D=d`. -/
def poke (addr : BitVec 16) (v : Byte) (d : Count) : Request := .access .poke addr v d 0#64

/-- `DH`, `NA`, `WP`. -/
structure GateRegs where
  dh : Byte
  na : Count
  wp : Bool
deriving DecidableEq, Repr

/-- `P0`, `P1`, `WE`, `RP`, `CB`, `POC`. -/
structure ConfigRegs where
  p0 : BankIx
  p1 : BankIx
  we : Bool
  rp : Bool
  cb : BitVec 5
  poc : Cycles
deriving DecidableEq, Repr

/-- The gate's registers. -/
def gate (s : State) : GateRegs := ⟨s.dh, s.na, s.wp⟩

/-- The configuration registers. -/
def config (s : State) : ConfigRegs := ⟨s.p0, s.p1, s.we, s.rp, s.cb, s.poc⟩

/-! ## WellFormed -/

theorem test_illformed_expire : Instr.wellFormed (.accExpire .peek 0x0FFF#13) = false := by decide
theorem test_illformed_commit_outside : Instr.wellFormed (.accCommit .poke 0x0000#13) = false := by decide
theorem test_illformed_commit_hotspot : Instr.wellFormed (.accCommit .peek 0x1FF8#13) = false := by decide
theorem test_illformed_peek : Instr.wellFormed (.peekData 0x0850#13) = false := by decide
theorem test_illformed_poke : Instr.wellFormed (.pokeEnd 0x0FF8#13) = false := by decide

/-! ## Decoding: words written out from R71, R74, R78 and R79 -/

/-- `rw` = 1, a = 1 1000 0101 0000: classes 1, 2, 5 and 6 (R72). -/
theorem test_decode_load : decode .accessWord 0b11100001010000 =
    .ok [.accLoad, .accExpire .peek 0x1850#13, .accCommit .peek 0x1850#13, .peekData 0x1850#13] := by decide

/-- `rw` = 0, a = 1 0000 1100 0011: classes 2, 3, 5 and 6 (R72). -/
theorem test_decode_arm : decode .accessWord 0b01000011000011 =
    .ok [.accExpire .poke 0x10C3#13, .accArm .poke 0xC3#8, .accCommit .poke 0x10C3#13, .pokeEnd 0x10C3#13] := by decide

/-- `rw` = 1, a = 1 1111 1111 1000: classes 2, 4 and 6 (R72). -/
theorem test_decode_config_hotspot : decode .accessWord 0b11111111111000 =
    .ok [.accExpire .peek 0x1FF8#13, .accConfig .peek, .peekData 0x1FF8#13] := by decide

/-- Vector A7: a[12] = 0 is never delivered. -/
theorem test_decode_outside : decode .accessWord 0b00111111111111 = .error .outsideWindow := by decide

/-- ignored : mode : w : p, one word for each mode (R74, R141). -/
theorem test_decode_config_bytes :
    decode .configByte 0b00000001 = .ok [.cfgMode0 0#3 false true] ∧
    decode .configByte 0b00000110 = .ok [.cfgMode1 0#3 true false] ∧
    decode .configByte 0b01001000 = .ok [.cfgMode2 2#3 false false] ∧
    decode .configByte 0b00001111 = .ok [.cfgMode3 0#3 true true] ∧
    decode .configByte 0b11110011 = .ok [.cfgMode4 7#3 true true] ∧
    decode .configByte 0b00010101 = .ok [.cfgMode5 0#3 false true] ∧
    decode .configByte 0b10011010 = .ok [.cfgMode6 4#3 true false] ∧
    decode .configByte 0b00011101 = .ok [.cfgMode7 0#3 false true] := by decide

/-- ignored : page : bank, one word for each bank (R78); vectors L4 and L10. -/
theorem test_decode_descriptors :
    decode .pageDescriptor 0b11100000 = .ok [.descBank0 7#3 0#3] ∧
    decode .pageDescriptor 0b00001101 = .ok [.descBank1 0#3 3#3] ∧
    decode .pageDescriptor 0b00011110 = .ok [.descBank2 0#3 7#3] ∧
    decode .pageDescriptor 0b00000011 = .ok [.descRom 0#3 0#3] := by decide

/-- The selectors of R79, and the first one that it does not list. -/
theorem test_decode_selectors :
    decode .hostSelector 0b0000 = .ok [.hostInstall] ∧ decode .hostSelector 0b0001 = .ok [.hostReset] ∧
    decode .hostSelector 0b0010 = .ok [.hostSetbank] ∧ decode .hostSelector 0b0011 = .ok [.hostCurrentbank] ∧
    decode .hostSelector 0b0100 = .ok [.hostBankcount] ∧ decode .hostSelector 0b0101 = .ok [.hostPatch] ∧
    decode .hostSelector 0b0110 = .ok [.hostRawimage] ∧ decode .hostSelector 0b0111 = .ok [.hostOnsystemcyclesreset] ∧
    decode .hostSelector 0b1000 = .ok [.hostConstruct] ∧
    decode .hostSelector 0b1001 = .error .noSuchOperation := by decide

/-- The one instruction of a table word (log 3). -/
theorem test_tableWord :
    decodeTableWord 16 0x3850 = some .accLoad ∧ decodeTableWord 16 0x1FF8 = some (.accConfig .poke) ∧
    decodeTableWord 16 0x3000 = some (.peekData 0x1000#13) ∧ decodeTableWord 16 0x1000 = some (.pokeEnd 0x1000#13) ∧
    decodeTableWord 8 0x1 = some .hostReset ∧ decodeTableWord 8 0x0C = some (.cfgMode3 0#3 false false) ∧
    decodeTableWord 16 0x0000 = none := by decide

/-- A table word placed at the front of the queue is what the next step performs (log 3). -/
theorem test_withFetchWord :
    (match step ((stateS0 []).withFetchWord 16 0x10C3) with
      | .next t => some t.dh
      | .fault _ => none
      | .refused _ => none) = some 0xC3#8 ∧
    (match step ((stateS0 []).withFetchWord 8 0x1C) with
      | .next t => some t.p0
      | .fault _ => none
      | .refused _ => none) = some 1#2 := by decide

/-! ## Accesses -/

/-- Vector G1. -/
theorem test_G1_arm : after (stateS0 []) (peek 0x1042#16 7#32) gate = some ⟨0x42#8, 7#32, true⟩ := by decide

/-- Vector G4: no re-arm while a write is pending and writes are enabled. -/
theorem test_G4_no_rearm : after (stateG 5#32) (peek 0x1022#16 8#32) gate = some ⟨0x11#8, 5#32, true⟩ := by decide

/-- Vector G5: the commit at +5 and the byte it returns. -/
theorem test_G5_commit : after (stateG 5#32) (peek 0x1820#16 10#32) (fun t => (t.ret, imgByte t 0x20, t.wp)) =
    some (.byte 0x11#8, 0x11#8, false) := by decide

/-- Vector G7: the commit lands in the arming region. -/
theorem test_G7_commit_in_arm_region : after (stateG 5#32) (peek 0x1022#16 10#32) (fun t => (imgByte t 0x1022, gate t)) =
    some (0x11#8, ⟨0x11#8, 5#32, false⟩) := by decide

/-- Vector G9: +6 expires, and writes nothing. -/
theorem test_G9_expire : after (stateG 5#32) (peek 0x1820#16 11#32) (fun t => (t.ret, gate t)) =
    some (.byte 0x99#8, ⟨0x11#8, 5#32, false⟩) := by decide

/-- Vector G11: expiry and arming in one access. -/
theorem test_G11_expire_then_arm : after (stateG 5#32) (peek 0x1022#16 11#32) gate = some ⟨0x22#8, 11#32, true⟩ := by
  decide

/-- Vector G13: `NA` + 5 wraps to 0 and the write commits there. -/
theorem test_G13_wrap_commits : after (stateG 0xFFFFFFFB#32) (peek 0x1820#16 0#32) (fun t => (imgByte t 0x20, t.wp)) =
    some (0x11#8, false) := by decide

/-- Vector G15: a commit into bank 3 is dropped. -/
theorem test_G15_rom_commit_dropped : after { stateG 5#32 with p1 := 3#2 } (poke 0x1FFF#16 0x77#8 10#32)
    (fun t => (t.img, t.wp, t.ret)) = some ([(0x20, 0x99#8), (0x1022, 0x77#8)], false, .nothing) := by decide

/-- Vector G16: the data byte of a `poke` is ignored. -/
theorem test_G16_poke_arms_by_address : after (stateS0 []) (poke 0x10C3#16 0xFF#8 4#32) gate = some ⟨0xC3#8, 4#32, true⟩ := by
  decide

/-- Vector G17: the hotspot at +5 reconfigures and does not commit. -/
theorem test_G17_hotspot_never_commits : after { stateG 5#32 with dh := 0x0F#8 } (peek 0x1FF8#16 10#32)
    (fun t => (config t, t.wp, t.img)) =
    some (⟨0#2, 2#2, true, false, 0x0F#5, 0#64⟩, false, [(0x20, 0x99#8), (0x1022, 0x77#8)]) := by decide

/-- Vector L1.7: the load of U7, no diagnostic, `BankChanged` once. -/
theorem test_L1_7_load : after (stateS0 unitU7) (peek 0x1850#16 100#32)
    (fun t => (imgByte t 255, t.sys, t.events)) =
    some (0xAA#8, ⟨0x0D#8, 0x00#8, 0xF0#8⟩,
      [.masterRead 0x80#16 0x07#8, .masterWrite 0xFE#16 0x00#8, .masterWrite 0xFF#16 0xF0#8,
        .masterWrite 0x80#16 0x0D#8, .bankChanged]) := by decide +kernel

/-- Vector L5: no unit has the id. -/
theorem test_L5_missing : after { stateS0 [] with sys := ⟨0x09#8, 1#8, 2#8⟩ } (peek 0x1850#16 100#32)
    (fun t => (t.events, t.img, t.sys)) =
    some ([.masterRead 0x80#16 0x09#8, .diag (.loadMissing 0x09#8)], [], ⟨0x09#8, 1#8, 2#8⟩) := by decide

/-! ## Descriptors -/

/-- S0 with the load engine's cursor at page 0 of a store cut short after 4 bytes 0xAA, so that the kernel copies 4 bytes and not 256. -/
def pageState : State := { stateS0 (List.replicate 4 0xAA#8) with cur := ⟨0, 0, false⟩ }

/-- What a descriptor's row does to the given byte of `IMG` and to the diagnostics. -/
def afterExec {β : Type} (i : Instr) (s : State) (view : State → β) : Option β :=
  match exec i s with
  | .next t => some (view t)
  | .fault _ => none
  | .refused _ => none

/-- Vector L4's second descriptor, 0x1E: bank 2, page 7. -/
theorem test_desc_bank2 : afterExec (.descBank2 0#3 7#3) pageState (fun t => imgByte t 0x1703) =
    some 0xAA#8 := by decide +kernel

/-- Vector L6's descriptor 0x01: bank 1, page 0. -/
theorem test_desc_bank1 : afterExec (.descBank1 0#3 0#3) pageState (fun t => imgByte t 0x803) =
    some 0xAA#8 := by decide +kernel

/-- Vector L10's descriptor 0xE0: bank 0, page 0, bits 7:5 counted in the checksum, which fails. -/
theorem test_desc_bank0 : afterExec (.descBank0 7#3 0#3) pageState (fun t => (imgByte t 0, t.events, t.cur.seen)) =
    some (0xAA#8, [.diag (.pageChecksumInvalid 0 0)], true) := by decide +kernel

/-- Vector L10's descriptor 0xFF: bank 3, not copied. -/
theorem test_desc_rom : afterExec (.descRom 7#3 7#3) pageState (fun t => t.img) = some [] := by decide +kernel

/-! ## Configuration bytes: vectors CF1 to CF4 and rows of L2.2 -/

theorem test_cfg_mode0 : afterExec (.cfgMode0 0#3 false false) { stateS0 [] with poc := 100#64, now := ⟨0#32, 250#64, 0, []⟩ } config =
    some ⟨2#2, 3#2, false, true, 0x00#5, 250#64⟩ := by decide
theorem test_cfg_mode1 : afterExec (.cfgMode1 7#3 true true) { stateG 9#32 with dh := 0x44#8 } (fun t => (config t, gate t, t.events)) =
    some (⟨0#2, 3#2, true, false, 0x07#5, 0#64⟩, ⟨0x44#8, 9#32, true⟩, [.bankChanged]) := by decide
theorem test_cfg_mode2 : afterExec (.cfgMode2 0#3 true true) (stateS0 []) config = some ⟨2#2, 0#2, true, false, 0x0B#5, 0#64⟩ := by
  decide
theorem test_cfg_mode3 : afterExec (.cfgMode3 0#3 false true) (stateS0 []) config = some ⟨0#2, 2#2, false, false, 0x0D#5, 0#64⟩ := by
  decide
theorem test_cfg_mode4 : afterExec (.cfgMode4 7#3 true true) { stateS0 [] with poc := 7#64, now := ⟨0#32, 500#64, 0, []⟩ } config =
    some ⟨2#2, 3#2, true, false, 0x13#5, 7#64⟩ := by decide
theorem test_cfg_mode5 : afterExec (.cfgMode5 0#3 false true) (stateS0 []) config = some ⟨1#2, 3#2, false, false, 0x15#5, 0#64⟩ := by
  decide
theorem test_cfg_mode6 : afterExec (.cfgMode6 0#3 true false) (stateS0 []) config = some ⟨2#2, 1#2, true, true, 0x1A#5, 0#64⟩ := by
  decide
theorem test_cfg_mode7 : afterExec (.cfgMode7 0#3 true true) (stateS0 []) config = some ⟨1#2, 2#2, true, false, 0x1F#5, 0#64⟩ := by
  decide

/-! ## Host operations -/

/-- A host call with cycle count `c` and argument `n`. -/
def call (sel : BitVec 4) (c : Cycles) (n : Nat) : Request := .host sel ⟨c, n, 0x1800#16, 0xEA#8, []⟩

/-- Vector H1. -/
theorem test_H1_install : after (stateG 5#32) (call 0#4 7#64 0) (fun t => (config t, gate t, t.installed)) =
    some (⟨2#2, 3#2, false, true, 0x00#5, 7#64⟩, ⟨0x11#8, 5#32, true⟩, true) := by decide

/-- Vector RS1. -/
theorem test_RS1_reset : after (stateG 5#32) (call 1#4 42#64 0) (fun t => (config t, gate t, t.img, t.events)) =
    some (⟨2#2, 3#2, false, true, 0x00#5, 42#64⟩, ⟨0#8, 0#32, false⟩, [], [.bankChanged]) := by decide

/-- Vector B1's fill byte, in a stub of the given length. -/
theorem test_B1_fill : ∀ o, Config.stubLen ≤ o → o < 2044 → biosByte 1 o = 0x02#8 := by
  intro o h1 h2
  have h3 := fastbootOffset_lt
  have h4 := accOffset_lt
  unfold biosByte
  rw [if_neg (by omega), if_neg (by omega), if_neg (by omega), if_neg (by omega)]

/-- Vector H2. -/
theorem test_H2_setbank : after { stateG 5#32 with dh := 0x44#8 } (call 2#4 0#64 11) (fun t => (config t, gate t, t.ret)) =
    some (⟨2#2, 0#2, true, false, 0x0B#5, 0#64⟩, ⟨0x44#8, 5#32, true⟩, .bool true) := by decide

/-- Vector H3: the argument is cut to its low byte. -/
theorem test_H3_setbank_truncates : after (stateG 5#32) (call 2#4 9#64 0x1850) (fun t => (config t, t.ret)) =
    some (⟨2#2, 3#2, false, true, 0x10#5, 9#64⟩, .bool true) := by decide

/-- Vector H4's last part: `currentBank` returns `CB`. -/
theorem test_H4_currentbank : after { stateG 5#32 with cb := 0x07#5 } (call 3#4 0#64 0) (·.ret) = some (.bank 0x07#5) := by
  decide

/-- Vector H5. -/
theorem test_H5_bankcount : after (stateG 5#32) (call 4#4 0#64 0) (·.ret) = some (.count 32) := by decide

/-- Vector H6. -/
theorem test_H6_patch : after (stateG 5#32) (call 5#4 0#64 0) (fun t => (t.ret, t.img, t.events)) =
    some (.bool false, [(0x20, 0x99#8), (0x1022, 0x77#8)], []) := by decide

/-- R225: the store and its size. -/
theorem test_rawimage : after { stateG 5#32 with loads := [1#8, 2#8] } (call 6#4 0#64 0) (·.ret) =
    some (.image [1#8, 2#8] 2) := by decide

/-- Vector H7. -/
theorem test_H7_rebase : after { stateG 5#32 with poc := 1000#64 } (call 7#4 5000#64 0) (·.poc) =
    some 0xFFFFFFFFFFFFF060#64 := by decide

/-- Vector X1: `S` = 8448. -/
theorem test_X1_construct : (constructStore (List.replicate 4096 1#8)).length = 8448 := by
  rw [length_constructStore, List.length_replicate]; rfl

/-- Vector RS4: after a construction every access is refused until a reset. -/
theorem test_RS4_construct_refuses : after { stateG 5#32 with ready := false } (peek 0x1FFC#16 0#32) (·.ret) = none := by
  decide

/-! ## Witnesses: a concrete case that meets every hypothesis of the obligation of that name -/

theorem witness_DecodeListsEncodedInstruction : Instr.wellFormed (.accCommit .poke 0x1FFF#13) = true := by decide

theorem witness_DecodedInstructionEncodesBack :
    decode .accessWord 0b01000000000000 =
      .ok [.accExpire .poke 0x1000#13, .accArm .poke 0x00#8, .accCommit .poke 0x1000#13, .pokeEnd 0x1000#13] ∧
    decode .configByte 255 = .ok [.cfgMode7 7#3 true true] ∧ decode .pageDescriptor 255 = .ok [.descRom 7#3 7#3] := by
  decide

/-- The ends of each clause's range. -/
theorem witness_DecodeRefusesOnlyTheUnlisted :
    (0 < 256 ∧ 255 < 256) ∧ (0x2FFF < 16384 ∧ 0x2FFF / 4096 % 2 = 0) ∧ (0x3FFF < 16384 ∧ 0x3FFF / 4096 % 2 = 1) ∧
    (0 ≤ 8 ∧ 8 ≤ 8) ∧ (8 < 9 ∧ 9 < 16) ∧ (8 < 15 ∧ 15 < 16) := by decide

theorem witness_AccessWordClassesInPriorityOrder :
    (0x1000#13 : WindowAddr).getLsbD 12 = true ∧ (0x1FFF#13 : WindowAddr).getLsbD 12 = true := by decide

theorem witness_StepRunsDecodedInstructions :
    (stateS0 []).pending = [] ∧
    (({ stateS0 [] with pending := [call 8#4 0#64 0] } : State).pending = .host 8#4 ⟨0#64, 0, 0x1800#16, 0xEA#8, []⟩ :: [] ∧
      decodeHost 8#4 = .ok .hostConstruct) ∧
    (({ stateS0 [] with pending := [peek 0xFFF8#16 3#32] } : State).pending = .access .peek 0xFFF8#16 0#8 3#32 0#64 :: [] ∧
      (stateS0 []).ready = true ∧ decodeAccess (accessWord .peek ((0xFFF8#16).setWidth 13)) =
        .ok [.accExpire .peek 0x1FF8#13, .accConfig .peek, .peekData 0x1FF8#13]) ∧
    classTaken (.accConfig .peek) (stateS0 []) = true :=
  ⟨rfl, ⟨rfl, by decide⟩, ⟨rfl, rfl, by decide⟩, rfl⟩

/-- Vector G5, and the ends of the window. -/
theorem witness_AccessStepIsR100 :
    let s : State := { stateG 5#32 with pending := [peek 0x1820#16 10#32] }
    s.pending = .access .peek 0x1820#16 0#8 10#32 0#64 :: [] ∧ s.ready = true ∧ (0x1820#16).getLsbD 12 = true ∧
    (0x1000#16).getLsbD 12 = true ∧ (0xFFFF#16).getLsbD 12 = true := ⟨rfl, rfl, by decide, by decide, by decide⟩

theorem witness_EveryOperationCompletes :
    (∃ t, step { stateS0 [] with pending := [peek 0x1000#16 0#32] } = .next t) ∧
    (∃ t, step { stateS0 [] with pending := [call 8#4 0#64 0] } = .next t) ∧
    (∃ t, step { stateS0 [] with pending := [.save] } = .next t) := ⟨⟨_, rfl⟩, ⟨_, rfl⟩, ⟨_, rfl⟩⟩

theorem witness_UndeliveredOperationsAreRefused :
    (({ stateS0 [] with pending := [peek 0x0FFF#16 0#32] } : State).pending = .access .peek 0x0FFF#16 0#8 0#32 0#64 :: [] ∧
      (0x0FFF#16).getLsbD 12 = false ∧ (0x2000#16).getLsbD 12 = false) ∧
    (({ stateS0 [] with pending := [peek 0x1000#16 0#32], ready := false } : State).pending =
        .access .peek 0x1000#16 0#8 0#32 0#64 :: [] ∧ (0x1000#16).getLsbD 12 = true ∧
      ({ stateS0 [] with pending := [peek 0x1000#16 0#32], ready := false } : State).ready = false) ∧
    (({ stateS0 [] with pending := [call 9#4 0#64 0] } : State).pending = .host 9#4 ⟨0#64, 0, 0x1800#16, 0xEA#8, []⟩ :: [] ∧
      8 < (9#4).toNat ∧ 8 < (15#4).toNat) :=
  ⟨⟨rfl, by decide, by decide⟩, ⟨rfl, by decide, rfl⟩, ⟨rfl, by decide, by decide⟩⟩

theorem witness_AccessClassesRefuseUndelivered :
    (0x0FFF#13 : WindowAddr).getLsbD 12 = false ∧ (0x1000#13 : WindowAddr).getLsbD 12 = true ∧
    ({ stateS0 [] with ready := false } : State).ready = false := by decide

/-- A pending write exactly at +5 and at +6, and past the wrap of the count. -/
theorem witness_ExpireCancelsBeyondFive :
    (0x1820#13 : WindowAddr).getLsbD 12 = true ∧ (stateG 5#32).ready = true ∧ (stateG 5#32).wp = true ∧
    ¬ (10#32).toNat > ((5#32).toNat + 5) % 4294967296 ∧ (11#32).toNat > ((5#32).toNat + 5) % 4294967296 ∧
    (0xFFFFFFFD#32).toNat > ((0xFFFFFFFC#32).toNat + 5) % 4294967296 := by decide

/-- Both branches: idle, and pending with writes enabled. -/
theorem witness_ArmLatchesLowAddressByte :
    (stateS0 []).ready = true ∧ (stateS0 []).wp = false ∧ (stateG 5#32).ready = true ∧
    ¬ ((stateG 5#32).we = false ∨ (stateG 5#32).wp = false) := by decide

theorem witness_ConfigHotspotAppliesDataHold : (stateG 5#32).ready = true ∧ (stateG 5#32).dh = 0x11#8 := by decide

/-- A commit that is due, into bank 0 through `P1`, and one into bank 3. -/
theorem witness_CommitWritesDataHoldAtTarget :
    let s : State := { stateG 5#32 with now := ⟨10#32, 0#64, 0, []⟩ }
    (0x1820#13 : WindowAddr).getLsbD 12 = true ∧ s.ready = true ∧ s.we = true ∧ s.wp = true ∧
    s.now.D.toNat = (s.na.toNat + 5) % 4294967296 ∧ backingBank 0x1820#13 s = 0#2 ∧ backingIndex 0x1820#13 s = 0x20 ∧
    backingBank 0x1820#13 { s with p1 := 3#2 } = 3#2 := by decide

theorem witness_DataReturnWritesNothing :
    (0x1FFF#13 : WindowAddr).getLsbD 12 = true ∧ (stateG 5#32).ready = true := by decide

/-- The load of U7, with the first index its page does not cover, and an access that is no load. -/
theorem witness_LoadTriggerReturnsRomByte :
    ((stateS0 unitU7).ready = true ∧ (stateS0 unitU7).cur = LoadCursor.idle ∧ (stateS0 unitU7).p1 = 3#2 ∧
      ∀ i j, FirstUnit unitU7 0x07#8 i → j < storedCount unitU7 i → ¬ PageCovers unitU7 i j 256) ∧
    ((stateG 5#32).ready = true ∧ (stateG 5#32).cur = LoadCursor.idle ∧ (stateG 5#32).p1 ≠ 3#2) := by
  refine ⟨⟨rfl, rfl, rfl, fun i j hi hj => ?_⟩, ⟨rfl, rfl, by decide⟩⟩
  have h1 := hi.1
  rw [length_unitU7] at h1
  have h2 : i = 0 := by omega
  subst h2
  have h3 : storedCount unitU7 0 = 1 := by
    unfold storedCount; rw [header_unitU7 (k := 3) rfl]; decide
  rw [h3] at hj
  have h4 : j = 0 := by omega
  subst h4
  have h5 : storedDescriptor unitU7 0 0 = 0#8 := by
    unfold storedDescriptor; rw [header_unitU7 (k := 16) rfl]; decide
  unfold PageCovers
  rw [h5]
  decide

/-- An access that arms and one that does not, in the states G1 and G4. -/
theorem witness_GateFollowsStateMachine :
    let s : State := { stateS0 [] with pending := [peek 0x1042#16 7#32] }
    let u : State := { stateG 5#32 with pending := [peek 0x1022#16 8#32] }
    (s.pending = .access .peek 0x1042#16 0#8 7#32 0#64 :: [] ∧ s.ready = true ∧ (0x1042#16).getLsbD 12 = true ∧
      ¬ ((0x1042#16).toNat % 8192 = 0x1850 ∧ s.p1 = 3#2) ∧ (0x1042#16).toNat / 256 % 16 = 0 ∧ s.wp = false) ∧
    (u.pending = .access .peek 0x1022#16 0#8 8#32 0#64 :: [] ∧ u.ready = true ∧ (0x1022#16).getLsbD 12 = true ∧
      ¬ ((0x1022#16).toNat % 8192 = 0x1850 ∧ u.p1 = 3#2) ∧
      ¬ ((0x1022#16).toNat / 256 % 16 = 0 ∧ (u.wp = false ∨ u.na + 5#32 < 8#32 ∨ u.we = false))) :=
  ⟨⟨rfl, rfl, by decide, by decide, by decide, rfl⟩, ⟨rfl, rfl, by decide, by decide, by decide⟩⟩

/-- Vector G5 changes a byte. -/
theorem witness_BankArrayChangesOnlyByCommit :
    after (stateG 5#32) (peek 0x1820#16 10#32) (imgByte · 0x20) = some 0x11#8 ∧ imgByte (stateG 5#32) 0x20 = 0x99#8 ∧
    ¬ ((0x1820#16).toNat % 8192 = 0x1850 ∧ (stateG 5#32).p1 = 3#2) := by decide

/-- A `peek` and a `poke`, both on the access at which the pending write would be due. -/
theorem witness_HotspotAccessReconfigures :
    let s : State := { stateG 5#32 with pending := [peek 0xFFF8#16 10#32] }
    let u : State := { stateG 5#32 with pending := [poke 0x1FF8#16 0x77#8 10#32] }
    (s.pending = .access .peek 0xFFF8#16 0#8 10#32 0#64 :: [] ∧ s.ready = true ∧ (0xFFF8#16).toNat % 8192 = 0x1FF8) ∧
    (u.pending = .access .poke 0x1FF8#16 0x77#8 10#32 0#64 :: [] ∧ u.ready = true ∧ (0x1FF8#16).toNat % 8192 = 0x1FF8) :=
  ⟨⟨rfl, rfl, by decide⟩, ⟨rfl, rfl, by decide⟩⟩

/-- A write that would be due on this very access. -/
theorem witness_LoadTriggerSkipsGate :
    let s : State := { stateG 5#32 with p1 := 3#2, pending := [peek 0xF850#16 10#32] }
    s.pending = .access .peek 0xF850#16 0#8 10#32 0#64 :: [] ∧ s.ready = true ∧ (0xF850#16).toNat % 8192 = 0x1850 ∧
    s.p1 = 3#2 ∧ s.we = true ∧ s.wp = true ∧ 10#32 = s.na + 5#32 := ⟨rfl, rfl, by decide, rfl, rfl, rfl, by decide⟩

theorem witness_PokeActsAsPeekWithoutReturn :
    ¬ ((0x1820#16).toNat % 8192 = 0x1850 ∧ (stateG 5#32).p1 = 3#2) ∧
    ∃ t, step { stateG 5#32 with pending := .access .peek 0x1820#16 0#8 10#32 0#64 :: [] } = .next t :=
  ⟨by decide, ⟨_, rfl⟩⟩

theorem witness_UpperAddressBitsAndDataIgnored : (0x1850#16).toNat % 8192 = (0xF850#16).toNat % 8192 := by decide

/-- Two reads of 0x1820 with no write pending. -/
theorem witness_QuietPeeksRepeat :
    let s : State := { stateG 5#32 with wp := false, pending := [peek 0x1820#16 6#32, peek 0x1820#16 7#32] }
    Quiet .peek ((0x1820#16).setWidth 13) { s with now := { s.now with D := 6#32 } } ∧
    ∃ t, step s = .next t ∧ Quiet .peek ((0x1820#16).setWidth 13) { t with now := { t.now with D := 7#32 } } ∧
      ∃ u, step t = .next u := by
  refine ⟨by unfold Quiet; decide, ⟨_, rfl, by unfold Quiet; decide, ⟨_, rfl⟩⟩⟩

theorem witness_RomPowerChangesNoAccess :
    ∃ t, step { stateG 5#32 with pending := .access .peek 0x1FF8#16 0#8 10#32 0#64 :: [] } = .next t := ⟨_, rfl⟩

/-- The invariant holds in S0 with the store U7. -/
theorem inv_stateS0 : Inv (stateS0 unitU7) where
  wf := rfl
  store := by
    show minStore ≤ unitU7.length
    exact Nat.le_of_eq length_unitU7.symm
  coherent := fun _ => ⟨by decide, by decide, by decide⟩
  idle := rfl
  saves := fun v hv => nomatch hv

/-- The least and the greatest byte of the first and the last mode. -/
theorem witness_ModeFieldSelectsBanks :
    (0x00#8).toNat / 4 % 8 = 0 ∧ (0xE3#8).toNat / 4 % 8 = 0 ∧ (0x04#8).toNat / 4 % 8 = 1 ∧ (0x08#8).toNat / 4 % 8 = 2 ∧
    (0x0C#8).toNat / 4 % 8 = 3 ∧ (0x10#8).toNat / 4 % 8 = 4 ∧ (0x14#8).toNat / 4 % 8 = 5 ∧
    (0x18#8).toNat / 4 % 8 = 6 ∧ (0x1C#8).toNat / 4 % 8 = 7 ∧ (0xFF#8).toNat / 4 % 8 = 7 := by decide

theorem witness_WindowsNeverAlias :
    Inv (stateS0 unitU7) ∧ (stateS0 unitU7).ready = true ∧ (0x17FF#13 : WindowAddr).getLsbD 11 = false ∧
    (0x1800#13 : WindowAddr).getLsbD 11 = true := ⟨inv_stateS0, rfl, by decide, by decide⟩

/-- Vector G23's configuration write, and vector H7's rebase. -/
theorem witness_ConfigurationWriters :
    let s : State := { stateS0 [] with dh := 0x0B#8, pending := [poke 0x1FF8#16 0#8 3#32] }
    let u : State := { stateS0 [] with poc := 1000#64, pending := [call 7#4 5000#64 0] }
    (s.pending = .access .poke 0x1FF8#16 0#8 3#32 0#64 :: [] ∧
      ∃ t, step s = .next t ∧ (t.p0, t.p1, t.we, t.rp, t.cb) ≠ (s.p0, s.p1, s.we, s.rp, s.cb)) ∧
    (u.pending = .host 7#4 ⟨5000#64, 0, 0x1800#16, 0xEA#8, []⟩ :: [] ∧ ∃ t, step u = .next t ∧ t.poc ≠ u.poc) :=
  ⟨⟨rfl, _, rfl, fun h => absurd (congrArg (fun x => x.2.1) h) (by decide)⟩, ⟨rfl, _, rfl, by decide⟩⟩

/-- The last page of the unit. -/
theorem witness_DescriptorRowsCheckAndCopy :
    let s : State := { stateS0 unitU7 with cur := ⟨0, 31, false⟩ }
    s.cur.unit < s.loads.length / 8448 ∧ s.cur.page < 32 := by
  refine ⟨?_, by decide⟩
  show 0 < unitU7.length / 8448
  rw [length_unitU7]; decide

/-- U7 is found, its one page covers bank 0 offsets 0 to 255, and not 256. -/
theorem witness_LoadFillsNamedPages :
    (stateS0 unitU7).ready = true ∧ (stateS0 unitU7).p1 = 3#2 ∧ (stateS0 unitU7).sys.b80 = 0x07#8 ∧
    FirstUnit (stateS0 unitU7).loads 0x07#8 0 ∧ storedCount unitU7 0 = 1 ∧
    PageCovers unitU7 0 0 0 ∧ PageCovers unitU7 0 0 255 ∧ ¬ PageCovers unitU7 0 0 256 := by
  have h1 : storedCount unitU7 0 = 1 := by
    unfold storedCount; rw [header_unitU7 (k := 3) rfl]; decide
  have h2 : storedDescriptor unitU7 0 0 = 0#8 := by
    unfold storedDescriptor; rw [header_unitU7 (k := 16) rfl]; decide
  unfold PageCovers
  rw [h2, stateS0_loads]
  refine ⟨rfl, rfl, rfl, ?_, ?_, ?_, ?_, ?_⟩
  · exact firstUnit_unitU7
  · exact h1
  · decide
  · decide
  · decide

theorem witness_LoadEmitsInOrder :
    (stateS0 unitU7).ready = true ∧ (stateS0 unitU7).p1 = 3#2 ∧
    (stateS0 unitU7).sys.b80 = 0x07#8 ∧ FirstUnit (stateS0 unitU7).loads 0x07#8 0 := by
  rw [stateS0_loads]
  exact ⟨rfl, rfl, rfl, firstUnit_unitU7⟩

theorem witness_LoadEndsWithBankChanged :
    (stateS0 unitU7).ready = true ∧ (stateS0 unitU7).p1 = 3#2 ∧
    (stateS0 unitU7).sys.b80 = 0x07#8 ∧ FirstUnit (stateS0 unitU7).loads 0x07#8 0 := witness_LoadEmitsInOrder

/-- Vector L5. -/
theorem witness_MissingLoadOnlyReports :
    let s : State := { stateS0 unitU7 with sys := ⟨0x09#8, 0#8, 0#8⟩ }
    s.ready = true ∧ s.p1 = 3#2 ∧ ∀ i, ¬ FirstUnit s.loads s.sys.b80 i := by
  refine ⟨rfl, rfl, fun i h => ?_⟩
  have h1 : i < unitU7.length / 8448 := h.1
  rw [length_unitU7] at h1
  have h2 : i = 0 := by omega
  subst h2
  have h3 : storeByte unitU7 (0 * 8448 + 8192 + 5) = 0x09#8 := h.2.1
  rw [header_unitU7 (k := 5) rfl] at h3
  exact absurd h3 (by decide)

/-- The header of a unit with id 8 and one page, to bank 1 page 0. -/
def headerOne : List Byte :=
  [0#8, 0#8, 0#8, 0x01#8, 0#8, 0x08#8] ++ List.replicate 10 0#8 ++ [0x01#8] ++ List.replicate 239 0#8

/-- U7, then a unit with id 8. -/
@[irreducible] def twoUnits : List Byte := unitU7 ++ (List.replicate 8192 0x22#8 ++ headerOne)

theorem header_twoUnits_left {n k : Nat} (h : n = 8192 + k) (hk : k < 256) :
    storeByte twoUnits n = storeByte headerU7 k := by
  unfold twoUnits
  exact (storeByte_append_left _ _ (by rw [length_unitU7]; omega)).trans (header_unitU7 h)

theorem header_twoUnits_right {n k : Nat} (h : n = 8448 + 8192 + k) :
    storeByte twoUnits n = storeByte headerOne k := by
  unfold twoUnits
  exact (storeByte_append_right _ _ (k := 8192 + k) (by rw [length_unitU7]; omega)).trans
    (storeByte_append_right _ _ (by rw [List.length_replicate]))

theorem length_twoUnits : twoUnits.length = 16896 := by
  unfold twoUnits
  have h : headerOne.length = 256 := by decide +kernel
  rw [List.length_append, length_unitU7, List.length_append, List.length_replicate, h]

/-- Both units have a page, at indices 0 to 255 and 2048 to 2303. -/
theorem witness_DisjointLoadsCommute :
    (stateS0 twoUnits).ready = true ∧ (stateS0 twoUnits).p1 = 3#2 ∧
    FirstUnit (stateS0 twoUnits).loads 0x07#8 0 ∧ FirstUnit (stateS0 twoUnits).loads 0x08#8 1 ∧
    DisjointDests (stateS0 twoUnits).loads 0 1 ∧
    0 < storedCount twoUnits 0 ∧ PageCovers twoUnits 0 0 255 ∧ 0 < storedCount twoUnits 1 ∧ PageCovers twoUnits 1 0 2048 := by
  rw [stateS0_loads]
  have c0 : storedCount twoUnits 0 = 1 := by
    unfold storedCount; rw [header_twoUnits_left (k := 3) rfl (by decide)]; decide
  have c1 : storedCount twoUnits 1 = 1 := by
    unfold storedCount; rw [header_twoUnits_right (k := 3) rfl]; decide
  have d0 : storedDescriptor twoUnits 0 0 = 0x00#8 := by
    unfold storedDescriptor; rw [header_twoUnits_left (k := 16) rfl (by decide)]; decide
  have d1 : storedDescriptor twoUnits 1 0 = 0x01#8 := by
    unfold storedDescriptor; rw [header_twoUnits_right (k := 16) rfl]; decide
  refine ⟨rfl, rfl, ⟨by rw [length_twoUnits]; decide, ?_, fun i' h => absurd h (Nat.not_lt_zero i')⟩,
    ⟨by rw [length_twoUnits]; decide, ?_, ?_⟩, ?_, by rw [c0]; decide, ?_, by rw [c1]; decide, ?_⟩
  · rw [header_twoUnits_left (k := 5) rfl (by decide)]; decide
  · rw [header_twoUnits_right (k := 5) rfl]; decide
  · intro i' h
    have h1 : i' = 0 := by omega
    subst h1
    rw [header_twoUnits_left (k := 5) rfl (by decide)]; decide
  · intro j j' a hj hj' h h'
    rw [c0] at hj
    rw [c1] at hj'
    have h1 : j = 0 := by omega
    have h2 : j' = 0 := by omega
    subst h1 h2
    unfold PageCovers at h h'
    rw [d0, show descriptorDest 0x00#8 = 0 from by decide] at h
    rw [d1, show descriptorDest 0x01#8 = 2048 from by decide] at h'
    omega
  · unfold PageCovers; rw [d0]; decide
  · unfold PageCovers; rw [d1]; decide

/-- One commit step, with no reset in the queue. -/
theorem witness_RomUnchangedBetweenResets :
    let s : State := { stateG 5#32 with pending := [peek 0x1820#16 10#32] }
    Memory.wf s.img = true ∧ (∀ sel args, Request.host sel args ∈ s.pending → sel ≠ 1#4 ∧ sel ≠ 8#4) ∧
    ∃ t, Sys2Proof.core.run 1 s = .next t := by
  refine ⟨rfl, ?_, ⟨_, rfl⟩⟩
  intro sel args h
  have h1 : Request.host sel args ∈ [peek 0x1820#16 10#32] := h
  rw [List.mem_singleton] at h1
  cases h1

theorem witness_StoreWrittenByConstructionOnly :
    ∃ t, step { stateS0 [] with pending := [call 8#4 0#64 0] } = .next t ∧ t.loads ≠ (stateS0 []).loads := by
  refine ⟨_, rfl, fun h => ?_⟩
  have h1 := congrArg List.length (show constructStore [] = [] from h)
  rw [length_constructStore] at h1
  exact absurd h1 (by decide)

theorem witness_StepKeepsInvariant : Inv (stateS0 unitU7) ∧ step (stateS0 unitU7) = .next (stateS0 unitU7) :=
  ⟨inv_stateS0, rfl⟩

/-- The first and the last vector byte. -/
theorem witness_VectorsReadAfterReset : (∃ t, exec .hostReset (stateG 5#32) = .next t) ∧ 0 < 4 ∧ 3 < 4 :=
  ⟨⟨_, rfl⟩, by decide, by decide⟩

/-- Both sides of the boundary between a short and a whole image. -/
theorem witness_ConstructBuildsStore :
    8448 ≤ (List.replicate 8448 0#8).length ∧ (List.replicate 8447 0#8).length < 8448 ∧
    ([] : List Byte).length ≤ 0 ∧ 8191 < 8192 := by
  rw [List.length_replicate, List.length_replicate]; decide

theorem witness_RestoreBringsBackSavedState :
    ∃ v u, step { stateG 5#32 with pending := [.save] } = .next u ∧ u.ret = .saved v ∧
      ∃ t, step { stateS0 [] with pending := [.restore v] } = .next t := ⟨_, _, rfl, rfl, ⟨_, rfl⟩⟩

theorem witness_OutsideMovesLeaveTheBlock :
    ({ stateS0 [] with pending := [.save] } : State).pending = [.save] ∧
    ({ stateS0 [] with pending := [.systemStore 0x80#16 7#8] } : State).pending = [.systemStore 0x80#16 7#8] := ⟨rfl, rfl⟩

end Sys2Proof.Tests
end

/-! PROOFS. What a step runs (R12, R70, R72), and that it keeps the invariant. -/

namespace Sys2Proof.Machine

/-! ## A step, one equation per case -/

theorem step_of_idle {s : State} (h : s.pending = []) : step s = .next s := by
  unfold step; rw [h]

theorem step_of_pending {s : State} {r : Request} {rest : List Request} (h : s.pending = r :: rest) :
    step s = perform r (present r rest s) := by
  unfold step; rw [h]

theorem runHost_of_decode {sel : BitVec 4} {i : Instr} (h : decodeHost sel = .ok i) (s : State) :
    runHost sel s = exec i s := by
  unfold runHost; rw [h]

theorem runAccess_of_decode {kind : Kind} {a : WindowAddr} {l : List Instr} {s : State}
    (h : decodeAccess (accessWord kind a) = .ok l) (hs : s.ready = true) :
    runAccess kind a s = runClasses l false s := by
  unfold runAccess; rw [h]; exact if_pos hs

/-! ## The classes of an access, one equation per case (R72) -/

theorem endsAccess_iff (i : Instr) : endsAccess i = true ↔ i = .accLoad := by
  cases i <;> simp [endsAccess]

/-- A class is run where its state condition holds and it is not excluded by an exclusive class before it. -/
theorem runClasses_cons_of_run {i : Instr} {done : Bool} {s : State} (l : List Instr)
    (h : classTaken i s = true ∧ ¬ (done = true ∧ exclusiveClass i = true)) :
    runClasses (i :: l) done s = andThen (exec i s) fun t =>
      if endsAccess i then .next t else runClasses l (done || exclusiveClass i) t := by
  rw [runClasses, if_pos (by simpa [or_iff_not_imp_left] using h)]

theorem runClasses_cons_of_skip {i : Instr} {done : Bool} {s : State} (l : List Instr)
    (h : ¬ (classTaken i s = true ∧ ¬ (done = true ∧ exclusiveClass i = true))) :
    runClasses (i :: l) done s = runClasses l done s := by
  rw [runClasses, if_neg (by simpa [or_iff_not_imp_left] using h)]

/-- Settles O6: the equations of the step and of the class loop, one per clause. -/
theorem stepRunsDecodedInstructions : Obligations.StepRunsDecodedInstructions := by
  unfold Obligations.StepRunsDecodedInstructions
  refine ⟨fun s h => step_of_idle h, ?_, ?_, fun done u => rfl, ?_⟩
  · intro s rest sel args i hp hi
    rw [step_of_pending hp]
    exact runHost_of_decode hi _
  · intro s rest kind addr data D C l hp hs hl
    rw [step_of_pending hp]
    exact runAccess_of_decode hl hs
  · intro i l done u
    split
    next h =>
      rw [runClasses_cons_of_run l h]
      cases exec i u with
      | next t => simp only [andThen_next, endsAccess_iff]
      | fault e => rfl
      | refused e => rfl
    next h => exact runClasses_cons_of_skip l h

/-! ## A postcondition of every next state

The rules by which it passes through the combinators of the model. -/

/-- `P` holds of the next state, if the outcome is one. -/
def Ensures (P : State → Prop) (o : Result) : Prop := ∀ t, o = .next t → P t

@[simp] theorem ensures_next (P : State → Prop) (s : State) : Ensures P (.next s) ↔ P s :=
  ⟨fun h => h s rfl, fun h _ ht => Host.Outcome.next.inj ht ▸ h⟩

@[simp] theorem ensures_refused (P : State → Prop) (e : Refusal) : Ensures P (.refused e) := nofun

theorem ensures_andThen {P Q : State → Prop} {o : Result} {f : State → Result} (ho : Ensures P o)
    (hf : ∀ s, P s → Ensures Q (f s)) : Ensures Q (andThen o f) := by
  cases o with
  | next s => exact hf s (ho s rfl)
  | fault e => nofun
  | refused e => nofun

theorem ensures_onAccess {P : State → Prop} (a : WindowAddr) {f : State → State} {s : State} (h : P (f s)) :
    Ensures P (onAccess a f s) := by
  unfold onAccess
  split
  · split
    · exact (ensures_next P _).mpr h
    · exact ensures_refused P _
  · exact ensures_refused P _

/-- Only access rows are classes of an access. -/
theorem format_of_classTaken {i : Instr} {s : State} (h : classTaken i s = true) : i.format = .accessWord := by
  cases i with
  | accLoad | accExpire | accArm | accConfig | accCommit | peekData | pokeEnd => rfl
  | _ => exact absurd h Bool.false_ne_true

theorem format_of_decodeHost {sel : BitVec 4} {i : Instr} (h : decodeHost sel = .ok i) :
    i.format = .hostSelector := by
  unfold decodeHost at h
  split at h <;> cases h <;> rfl

/-- What every access row keeps, an access's classes keep, whichever of them it takes. -/
theorem ensures_runClasses {P : State → Prop}
    (hP : ∀ i s, i.format = .accessWord → P s → Ensures P (exec i s)) (l : List Instr) (done : Bool) {s : State}
    (hs : P s) : Ensures P (runClasses l done s) := by
  induction l generalizing done s with
  | nil => exact (ensures_next P s).mpr hs
  | cons i l ih =>
    by_cases h : classTaken i s = true ∧ ¬ (done = true ∧ exclusiveClass i = true)
    · rw [runClasses_cons_of_run l h]
      refine ensures_andThen (hP i s (format_of_classTaken h.1) hs) fun t ht => ?_
      split
      · exact (ensures_next P t).mpr ht
      · exact ih _ ht
    · rw [runClasses_cons_of_skip l h]
      exact ih done hs

theorem ensures_runAccess {P : State → Prop}
    (hP : ∀ i s, i.format = .accessWord → P s → Ensures P (exec i s)) (kind : Kind) (a : WindowAddr) {s : State}
    (hs : P s) : Ensures P (runAccess kind a s) := by
  unfold runAccess
  split
  · split
    · exact ensures_runClasses hP _ _ hs
    · exact ensures_refused P _
  · exact ensures_refused P _

theorem ensures_runHost {P : State → Prop} (sel : BitVec 4) {s : State}
    (hP : ∀ i, i.format = .hostSelector → Ensures P (exec i s)) : Ensures P (runHost sel s) := by
  unfold runHost
  split
  next i hi => exact hP i (format_of_decodeHost hi)
  · exact ensures_refused P _

/-! ## The shared operations keep the invariant -/

section
variable {s : State}

theorem Inv.emit (h : Inv s) (e : Event) : Inv (emit e s) := ⟨h.wf, h.store, h.coherent, h.idle, h.saves⟩

theorem Inv.returning (h : Inv s) (r : Ret) : Inv (returning r s) := ⟨h.wf, h.store, h.coherent, h.idle, h.saves⟩

theorem Inv.claimWindow (h : Inv s) : Inv (claimWindow s) := ⟨h.wf, h.store, h.coherent, h.idle, h.saves⟩

/-- The gate's registers are no part of the invariant. -/
theorem Inv.setGate (h : Inv s) (dh : Byte) (na : Count) (wp : Bool) :
    Inv { s with dh := dh, na := na, wp := wp } := ⟨h.wf, h.store, h.coherent, h.idle, h.saves⟩

theorem Inv.setPoc (h : Inv s) (C : Cycles) : Inv { s with poc := C } :=
  ⟨h.wf, h.store, h.coherent, h.idle, h.saves⟩

theorem Inv.setSys (h : Inv s) (r : SysRam) : Inv { s with sys := r } :=
  ⟨h.wf, h.store, h.coherent, h.idle, h.saves⟩

theorem Inv.applyConfig (h : Inv s) (v : Byte) (C : Cycles) : Inv (applyConfig v C s) :=
  ⟨h.wf, h.store, fun _ => coherent_applyConfig v C s, h.idle, h.saves⟩

theorem Inv.commitWrite (h : Inv s) (a : WindowAddr) : Inv (commitWrite a s) := by
  rw [commitWrite_eq]
  exact ⟨wf_commitWrite a h.wf, h.store, h.coherent, h.idle, h.saves⟩

theorem Inv.loadIntoRAM (h : Inv s) (id : Byte) : Inv (loadIntoRAM id s) := by
  rw [loadIntoRAM_eq]
  exact ⟨wf_loadIntoRAM id h.wf, h.store, h.coherent, loadIntoRAM_cur id h.idle, h.saves⟩

theorem Inv.triggerLoad (h : Inv s) : Inv (triggerLoad s) := ((h.emit _).loadIntoRAM _).returning _

/-- A reset makes the configuration coherent, whatever it was before (R280, R281). -/
theorem Inv.resetBlock (h : Inv s) (C : Cycles) : Inv (resetBlock C s) :=
  ⟨wf_redrawImage s, h.store, fun _ => coherent_applyConfig 0#8 C _, h.idle, h.saves⟩

/-- After a construction nothing is asked of the configuration: no reset has run (R35, R160). -/
theorem Inv.constructBlock (h : Inv s) (image : List Byte) : Inv (constructBlock image s) :=
  ⟨rfl, (length_constructStore image).symm ▸ Nat.le_max_right _ _, nofun, h.idle, h.saves⟩

theorem Inv.restoreState (h : Inv s) {v : Saved} (hv : v.Legal) : Inv (restoreState v s) where
  wf := wf_restoreState v h.wf
  store := by simpa using h.store
  coherent := fun _ => by simpa using hv.2
  idle := by simpa using h.idle
  saves := by simpa using h.saves

theorem Inv.present {r : Request} {rest : List Request} (h : Inv s) (hp : s.pending = r :: rest) :
    Inv (present r rest s) :=
  ⟨h.wf, h.store, h.coherent, h.idle, fun v hv => h.saves v (hp ▸ List.mem_cons_of_mem r hv)⟩

end

/-! ## Every step keeps the invariant -/

/-- Every row but the page descriptor's keeps the invariant; a descriptor's row moves the load cursor (R163). -/
theorem ensures_exec_inv {i : Instr} {s : State} (hi : i.format ≠ .pageDescriptor) (h : Inv s) :
    Ensures Inv (exec i s) := by
  cases i with
  | accLoad => exact ensures_onAccess loadTrigger (iteInduction (motive := Inv) (fun _ => h.triggerLoad) fun _ => h)
  | accExpire k a => exact ensures_onAccess a (iteInduction (motive := Inv) (fun _ => h.setGate _ _ _) fun _ => h)
  | accArm k low =>
    exact ensures_onAccess (armAddr low) (iteInduction (motive := Inv) (fun _ => h.setGate _ _ _) fun _ => h)
  | accConfig k =>
    exact ensures_onAccess configHotspot ((h.setGate s.dh s.na false).applyConfig s.dh s.now.C)
  | accCommit k a =>
    exact ensures_onAccess a
      (iteInduction (motive := Inv) (fun _ => (h.commitWrite a).setGate _ _ _) fun _ => h)
  | peekData a => exact ensures_onAccess _ (h.returning _)
  | pokeEnd a => exact ensures_onAccess _ (h.returning _)
  | cfgMode0 g w p | cfgMode1 g w p | cfgMode2 g w p | cfgMode3 g w p | cfgMode4 g w p | cfgMode5 g w p
  | cfgMode6 g w p | cfgMode7 g w p => exact (ensures_next _ _).mpr (h.applyConfig _ _)
  | descBank0 g q | descBank1 g q | descBank2 g q | descRom g q => exact absurd rfl hi
  | hostInstall => exact (ensures_next _ _).mpr ((h.claimWindow.applyConfig _ _).returning _)
  | hostReset => exact (ensures_next _ _).mpr ((h.resetBlock _).returning _)
  | hostSetbank => exact (ensures_next _ _).mpr ((h.applyConfig _ _).returning _)
  | hostCurrentbank | hostBankcount | hostPatch | hostRawimage =>
    exact (ensures_next _ _).mpr (h.returning _)
  | hostOnsystemcyclesreset => exact (ensures_next _ _).mpr ((h.setPoc _).returning _)
  | hostConstruct => exact (ensures_next _ _).mpr ((h.constructBlock _).returning _)

/-- An operation keeps the invariant, if a save-state that it restores is legal. -/
theorem ensures_perform_inv {r : Request} {s : State} (h : Inv s) (hr : ∀ v, r = .restore v → v.Legal) :
    Ensures Inv (perform r s) := by
  cases r with
  | access kind addr data D C =>
    exact ensures_runAccess (fun i s hi hs => ensures_exec_inv (by rw [hi]; decide) hs) _ _ h
  | host sel args => exact ensures_runHost sel fun i hi => ensures_exec_inv (by rw [hi]; decide) h
  | save => exact (ensures_next _ _).mpr (h.returning _)
  | restore v => exact (ensures_next _ _).mpr (h.restoreState (hr v rfl))
  | systemStore addr v => exact (ensures_next _ _).mpr (h.setSys _)

/-- Settles O40: an idle step changes nothing, and the oldest operation keeps the invariant, a legal save-state being all that the queue can restore. -/
theorem stepKeepsInvariant : Obligations.StepKeepsInvariant := by
  unfold Obligations.StepKeepsInvariant
  intro s t h hstep
  cases hp : s.pending with
  | nil =>
    rw [step_of_idle hp] at hstep
    exact (ensures_next Inv s).mpr h t hstep
  | cons r rest =>
    rw [step_of_pending hp] at hstep
    have hr : ∀ v, r = .restore v → v.Legal := fun v hv => h.saves v (by rw [hp, hv]; exact List.mem_cons_self)
    exact ensures_perform_inv (h.present hp) hr t hstep

end Sys2Proof.Machine

/-! PROOFS. The family of the state: what each operation can write (the store, bank 3, the configuration registers), that RP and POC change no access, the two windows, and the operations that leave the block alone. -/

namespace Sys2Proof.Machine

/-! ## What an operation can write, said once

Four parts of the state have few writers. `rowWrites` and `requestWrites` name them for every row and every presented operation; `Frame` says that everything outside the named parts stays. -/

/-- Which of the parts with few writers may be written. -/
structure Writes where
  /-- The load-image store (R31). -/
  store : Bool
  /-- The draw that the unlisted bytes of the bank array are, and with it bank 3 (R204, R207). -/
  draw : Bool
  /-- `P0`, `P1`, `WE`, `RP` and `CB` (R140). -/
  config : Bool
  /-- `POC` (R26). -/
  poc : Bool

def Writes.nothing : Writes := ⟨false, false, false, false⟩

/-- What ApplyConfig and a restore write (R140, R229). -/
def Writes.registers : Writes := ⟨false, false, true, true⟩

/-- What a row may write. -/
def rowWrites : Instr → Writes
  | .accConfig _ => .registers
  | .cfgMode0 _ _ _ => .registers
  | .cfgMode1 _ _ _ => .registers
  | .cfgMode2 _ _ _ => .registers
  | .cfgMode3 _ _ _ => .registers
  | .cfgMode4 _ _ _ => .registers
  | .cfgMode5 _ _ _ => .registers
  | .cfgMode6 _ _ _ => .registers
  | .cfgMode7 _ _ _ => .registers
  | .hostInstall => .registers
  | .hostSetbank => .registers
  | .hostReset => ⟨false, true, true, true⟩
  | .hostOnsystemcyclesreset => ⟨false, false, false, true⟩
  | .hostConstruct => ⟨true, true, true, true⟩
  | _ => .nothing

/-- What the host operation of a selector may write. -/
def hostWrites (sel : BitVec 4) : Writes :=
  match decodeHost sel with
  | .ok i => rowWrites i
  | .error _ => .nothing

/-- What a presented operation may write. -/
def requestWrites : Request → Writes
  | .access _ addr _ _ _ => if windowAddr addr = configHotspot then .registers else .nothing
  | .host sel _ => hostWrites sel
  | .save => .nothing
  | .restore _ => .registers
  | .systemStore _ _ => .nothing

/-- From `s` to `t` nothing outside `w` was written, no operation left the queue, and the bank array stayed canonical. -/
structure Frame (w : Writes) (s t : State) : Prop where
  pending : t.pending = s.pending
  wf : Memory.wf s.img = true → Memory.wf t.img = true
  store : w.store = false → t.loads = s.loads
  draw : w.draw = false → t.ready = s.ready ∧ t.epoch = s.epoch
  config : w.config = false → (t.p0, t.p1, t.we, t.rp, t.cb) = (s.p0, s.p1, s.we, s.rp, s.cb)
  poc : w.poc = false → t.poc = s.poc

section
variable {w : Writes} {s t u : State}

theorem Frame.refl (w : Writes) (s : State) : Frame w s s :=
  ⟨rfl, id, fun _ => rfl, fun _ => ⟨rfl, rfl⟩, fun _ => rfl, fun _ => rfl⟩

theorem Frame.trans (h : Frame w s t) (h' : Frame w t u) : Frame w s u where
  pending := h'.pending.trans h.pending
  wf := h'.wf ∘ h.wf
  store hw := (h'.store hw).trans (h.store hw)
  draw hw := ⟨(h'.draw hw).1.trans (h.draw hw).1, (h'.draw hw).2.trans (h.draw hw).2⟩
  config hw := (h'.config hw).trans (h.config hw)
  poc hw := (h'.poc hw).trans (h.poc hw)

/-- What writes none of the four parts stays within any of them. -/
theorem Frame.of_nothing (h : Frame .nothing s t) (w : Writes) : Frame w s t :=
  ⟨h.pending, h.wf, fun _ => h.store rfl, fun _ => h.draw rfl, fun _ => h.config rfl, fun _ => h.poc rfl⟩

/-- The gate, the scratch bytes, the cursor and the outputs belong to none of the four parts, nor do the listed bytes of the bank array. -/
theorem Frame.of_eq
    (h : t = { s with
      img := t.img, dh := t.dh, na := t.na, wp := t.wp, sys := t.sys, cur := t.cur, ret := t.ret, events := t.events })
    (hwf : Memory.wf s.img = true → Memory.wf t.img = true) : Frame w s t where
  pending := by rw [h]
  wf := hwf
  store _ := by rw [h]
  draw _ := by rw [h]; exact ⟨rfl, rfl⟩
  config _ := by rw [h]
  poc _ := by rw [h]

theorem frame_returning (w : Writes) (r : Ret) (s : State) : Frame w s (returning r s) := .of_eq rfl id

theorem frame_claimWindow (w : Writes) (s : State) : Frame w s (claimWindow s) :=
  ⟨rfl, id, fun _ => rfl, fun _ => ⟨rfl, rfl⟩, fun _ => rfl, fun _ => rfl⟩

theorem frame_setGate (w : Writes) (dh : Byte) (na : Count) (wp : Bool) (s : State) :
    Frame w s { s with dh := dh, na := na, wp := wp } := .of_eq rfl id

theorem frame_commitWrite (w : Writes) (a : WindowAddr) (s : State) : Frame w s (commitWrite a s) :=
  .of_eq (by rw [commitWrite_eq]) (wf_commitWrite a)

theorem frame_loadIntoRAM (w : Writes) (id : Byte) (s : State) : Frame w s (loadIntoRAM id s) :=
  .of_eq (by rw [loadIntoRAM_eq]) (wf_loadIntoRAM id)

theorem frame_triggerLoad (w : Writes) (s : State) : Frame w s (triggerLoad s) :=
  have hread : Frame w s (emit (.masterRead 0x0080#16 s.sys.b80) s) := .of_eq rfl id
  (hread.trans (frame_loadIntoRAM w _ _)).trans (frame_returning w _ _)

theorem frame_applyConfig (v : Byte) (C : Cycles) (s : State) : Frame .registers s (applyConfig v C s) :=
  ⟨rfl, id, fun _ => rfl, fun _ => ⟨rfl, rfl⟩, nofun, nofun⟩

theorem frame_restoreState (v : Saved) (s : State) : Frame .registers s (restoreState v s) where
  pending := restoreState_pending v s
  wf := wf_restoreState v
  store _ := restoreState_loads v s
  draw _ := ⟨restoreState_ready v s, restoreState_epoch v s⟩
  config := nofun
  poc := nofun

end

/-- Every row but the page descriptor's, which only a load runs, writes what `rowWrites` names and no more. -/
theorem ensures_exec_frame {i : Instr} (hi : i.format ≠ .pageDescriptor) (s : State) :
    Ensures (Frame (rowWrites i) s) (exec i s) := by
  cases i with
  | accLoad =>
    exact ensures_onAccess loadTrigger
      (iteInduction (motive := Frame _ s) (fun _ => frame_triggerLoad _ s) fun _ => .refl _ s)
  | accExpire k a =>
    exact ensures_onAccess a
      (iteInduction (motive := Frame _ s) (fun _ => frame_setGate _ _ _ _ s) fun _ => .refl _ s)
  | accArm k low =>
    exact ensures_onAccess (armAddr low)
      (iteInduction (motive := Frame _ s) (fun _ => frame_setGate _ _ _ _ s) fun _ => .refl _ s)
  | accConfig k =>
    exact ensures_onAccess configHotspot ((frame_setGate _ s.dh s.na false s).trans (frame_applyConfig _ _ _))
  | accCommit k a =>
    exact ensures_onAccess a
      (iteInduction (motive := Frame _ s)
        (fun _ => (frame_commitWrite _ a s).trans (frame_setGate _ _ _ _ _)) fun _ => .refl _ s)
  | peekData a => exact ensures_onAccess _ (frame_returning _ _ s)
  | pokeEnd a => exact ensures_onAccess _ (frame_returning _ _ s)
  | cfgMode0 g w p | cfgMode1 g w p | cfgMode2 g w p | cfgMode3 g w p | cfgMode4 g w p | cfgMode5 g w p
  | cfgMode6 g w p | cfgMode7 g w p => exact (ensures_next _ _).mpr (frame_applyConfig _ _ s)
  | descBank0 g q | descBank1 g q | descBank2 g q | descRom g q => exact absurd rfl hi
  | hostInstall =>
    exact (ensures_next _ _).mpr
      (((frame_claimWindow _ s).trans (frame_applyConfig _ _ _)).trans (frame_returning _ _ _))
  | hostReset =>
    exact (ensures_next _ _).mpr ⟨rfl, fun _ => wf_redrawImage s, fun _ => rfl, nofun, nofun, nofun⟩
  | hostSetbank => exact (ensures_next _ _).mpr ((frame_applyConfig _ _ s).trans (frame_returning _ _ _))
  | hostCurrentbank | hostBankcount | hostPatch | hostRawimage =>
    exact (ensures_next _ _).mpr (frame_returning _ _ s)
  | hostOnsystemcyclesreset =>
    exact (ensures_next _ _).mpr ⟨rfl, id, fun _ => rfl, fun _ => ⟨rfl, rfl⟩, fun _ => rfl, nofun⟩
  | hostConstruct => exact (ensures_next _ _).mpr ⟨rfl, fun _ => rfl, nofun, nofun, nofun, nofun⟩

/-! ## The classes of an access -/

/-- `ensures_runClasses` for the rows of the list only. -/
theorem ensures_runClasses_of_mem {P : State → Prop} {l : List Instr}
    (hP : ∀ i ∈ l, ∀ s, i.format = .accessWord → P s → Ensures P (exec i s)) (done : Bool) {s : State} (hs : P s) :
    Ensures P (runClasses l done s) := by
  induction l generalizing done s with
  | nil => exact (ensures_next P s).mpr hs
  | cons i l ih =>
    have hl : ∀ j ∈ l, ∀ s, j.format = .accessWord → P s → Ensures P (exec j s) :=
      fun j hj => hP j (List.mem_cons_of_mem i hj)
    by_cases h : classTaken i s = true ∧ ¬ (done = true ∧ exclusiveClass i = true)
    · rw [runClasses_cons_of_run l h]
      refine ensures_andThen (hP i List.mem_cons_self s (format_of_classTaken h.1) hs) fun t ht => ?_
      split
      · exact (ensures_next P t).mpr ht
      · exact ih hl _ ht
    · rw [runClasses_cons_of_skip l h]
      exact ih hl done hs

/-- ACC.CONFIG is a class of an access to the hotspot only (R72). -/
theorem eq_configHotspot_of_mem {kind k : Kind} {a : WindowAddr} {l : List Instr}
    (hl : decodeAccess (accessWord kind a) = .ok l) (h : Instr.accConfig k ∈ l) : a = configHotspot := by
  unfold decodeAccess at hl
  split at hl
  · cases hl
    obtain ⟨r, ⟨hr, hfit⟩, hbuild⟩ : ∃ r : AccessRow, (r ∈ accessRows ∧ r.fits (accessWord kind a) = true) ∧
        r.build (wordKind (accessWord kind a)) (wordAddr (accessWord kind a)) = .accConfig k := by
      simpa only [List.mem_filter, List.mem_map] using (List.mem_filter.mp h).1
    simp only [accessRows, List.mem_cons, List.not_mem_nil, or_false] at hr
    obtain rfl | rfl | rfl | rfl | rfl | rfl | rfl := hr
    case inr.inr.inr.inl => exact (mask_config kind a).mp (of_decide_eq_true hfit)
    all_goals exact Instr.noConfusion hbuild
  · cases hl

/-- Of the rows of an access only ACC.CONFIG writes any of the four parts. -/
theorem rowWrites_of_accessWord {i : Instr} (hi : i.format = .accessWord) :
    rowWrites i = .nothing ∨ ∃ k, i = .accConfig k := by
  cases i with
  | accConfig k => exact .inr ⟨k, rfl⟩
  | accLoad | accExpire | accArm | accCommit | peekData | pokeEnd => exact .inl rfl
  | _ => exact absurd hi nofun

theorem ensures_runAccess_frame {w : Writes} {kind : Kind} {a : WindowAddr} {s : State}
    (hw : a = configHotspot → w = .registers) : Ensures (Frame w s) (runAccess kind a s) := by
  unfold runAccess
  split
  next l hl =>
    split
    · refine ensures_runClasses_of_mem (fun i hmem u hi hu t ht => hu.trans ?_) _ (.refl w s)
      have hrow := ensures_exec_frame (by rw [hi]; decide) u t ht
      obtain hnone | ⟨k, rfl⟩ := rowWrites_of_accessWord hi
      · rw [hnone] at hrow
        exact hrow.of_nothing w
      · rw [hw (eq_configHotspot_of_mem hl hmem)]
        exact hrow
    · exact ensures_refused _ _
  · exact ensures_refused _ _

/-! ## A presented operation, and a step -/

theorem ensures_runHost_frame (sel : BitVec 4) (s : State) : Ensures (Frame (hostWrites sel) s) (runHost sel s) := by
  unfold runHost hostWrites
  cases h : decodeHost sel with
  | ok i => exact ensures_exec_frame (by rw [format_of_decodeHost h]; decide) s
  | error e => exact ensures_refused _ _

theorem ensures_perform_frame (r : Request) (s : State) : Ensures (Frame (requestWrites r) s) (perform r s) := by
  cases r with
  | access kind addr data D C => exact ensures_runAccess_frame fun ha => if_pos ha
  | host sel args => exact ensures_runHost_frame sel s
  | save => exact (ensures_next _ _).mpr (frame_returning _ _ s)
  | restore v => exact (ensures_next _ _).mpr (frame_restoreState v s)
  | systemStore addr v => exact (ensures_next _ _).mpr (.of_eq rfl id)

/-- A step on a presented operation writes what `requestWrites` names, from the state in which the operation begins. -/
theorem frame_of_step {s t : State} {r : Request} {rest : List Request} (hp : s.pending = r :: rest)
    (h : step s = .next t) : Frame (requestWrites r) (present r rest s) t :=
  ensures_perform_frame r _ t (by rwa [step_of_pending hp] at h)

/-! ## Who writes the four parts -/

/-- The writers of any of the four parts: an access to the hotspot, a host operation, a restore. -/
theorem writer_cases (part : Writes → Bool) (hpart : part .nothing = false) {r : Request}
    (h : part (requestWrites r) = true) :
    (∃ kind addr data D C, r = .access kind addr data D C ∧ addr.toNat % 8192 = 0x1FF8 ∧ part .registers = true) ∨
    (∃ sel args, r = .host sel args ∧ part (hostWrites sel) = true) ∨
    (∃ v, r = .restore v ∧ part .registers = true) := by
  cases r with
  | access kind addr data D C =>
    by_cases ha : windowAddr addr = configHotspot
    · rw [requestWrites, if_pos ha] at h
      exact .inl ⟨kind, addr, data, D, C, rfl, (windowAddr_eq_iff addr (by omega)).mp ha, h⟩
    · rw [requestWrites, if_neg ha, hpart] at h
      exact absurd h Bool.false_ne_true
  | host sel args => exact .inr (.inl ⟨sel, args, rfl, h⟩)
  | restore v => exact .inr (.inr ⟨v, rfl, h⟩)
  | save | systemStore => exact absurd (hpart.symm.trans h) Bool.false_ne_true

theorem hostWrites_store {sel : BitVec 4} : (hostWrites sel).store = true → sel = 8#4 := by
  revert sel; decide

theorem hostWrites_draw {sel : BitVec 4} : (hostWrites sel).draw = true → sel = 1#4 ∨ sel = 8#4 := by
  revert sel; decide

theorem hostWrites_config {sel : BitVec 4} :
    (hostWrites sel).config = true → sel = 0#4 ∨ sel = 1#4 ∨ sel = 2#4 ∨ sel = 8#4 := by
  revert sel; decide

theorem hostWrites_poc {sel : BitVec 4} :
    (hostWrites sel).poc = true → sel = 0#4 ∨ sel = 1#4 ∨ sel = 2#4 ∨ sel = 7#4 ∨ sel = 8#4 := by
  revert sel; decide

/-! ## Bank 3 over a run -/

/-- What decides bank 3 is as before, and nothing was presented anew. -/
structure SameRom (s t : State) : Prop where
  wf : Memory.wf t.img = true
  ready : t.ready = s.ready
  epoch : t.epoch = s.epoch
  pending : t.pending ⊆ s.pending

/-- Neither HOST.RESET nor HOST.CONSTRUCT is in the queue. -/
def NoRedraw (q : List Request) : Prop := ∀ sel args, Request.host sel args ∈ q → sel ≠ 1#4 ∧ sel ≠ 8#4

theorem requestWrites_draw {r : Request} {q : List Request} (hq : NoRedraw q) (hr : r ∈ q) :
    (requestWrites r).draw = false := by
  by_contra h
  obtain ⟨_, _, _, _, _, _, _, hreg⟩ | ⟨sel, args, rfl, hsel⟩ | ⟨_, _, hreg⟩ :=
    writer_cases Writes.draw rfl (Bool.eq_true_of_not_eq_false h)
  · exact absurd hreg Bool.false_ne_true
  · obtain ⟨h1, h8⟩ := hq sel args hr
    exact (hostWrites_draw hsel).elim h1 h8
  · exact absurd hreg Bool.false_ne_true

theorem sameRom_of_step {s t : State} (hs : Memory.wf s.img = true) (hq : NoRedraw s.pending)
    (h : step s = .next t) : SameRom s t := by
  cases hp : s.pending with
  | nil =>
    rw [step_of_idle hp] at h
    cases h
    exact ⟨hs, rfl, rfl, List.Subset.refl _⟩
  | cons r rest =>
    have hframe := frame_of_step hp h
    obtain ⟨hready, hepoch⟩ := hframe.draw (requestWrites_draw hq (hp ▸ List.mem_cons_self))
    refine ⟨hframe.wf hs, hready, hepoch, ?_⟩
    rw [hframe.pending, hp]
    exact List.subset_cons_self r rest

theorem sameRom_of_run {n : Nat} {s t : State} (hs : Memory.wf s.img = true) (hq : NoRedraw s.pending)
    (h : Sys2Proof.core.run n s = .next t) : SameRom s t := by
  induction n generalizing s with
  | zero =>
    cases h
    exact ⟨hs, rfl, rfl, List.Subset.refl _⟩
  | succ n ih =>
    obtain ⟨u, hstep, hrun⟩ := run_succ_next h
    have hu : SameRom s u := sameRom_of_step hs hq hstep
    have ht := ih hu.wf (fun sel args hmem => hq sel args (hu.pending hmem)) hrun
    exact ⟨ht.wf, ht.ready.trans hu.ready, ht.epoch.trans hu.epoch, fun r hr => hu.pending (ht.pending hr)⟩

/-- Settles O37, by induction on the number of steps: the bank array stays canonical and the draw stays, and these two decide bank 3. -/
theorem romUnchangedBetweenResets : Obligations.RomUnchangedBetweenResets := by
  unfold Obligations.RomUnchangedBetweenResets
  intro n s t hs hq hrun o _
  have h := sameRom_of_run hs hq hrun
  have ho : 6144 ≤ 6144 + o := Nat.le_add_right _ _
  rw [imgByte_rom h.wf ho, imgByte_rom hs ho, h.ready, h.epoch]

/-! ## The writers of the configuration registers, and of the store -/

/-- Settles O30, by `Frame`: an operation that does not write the registers leaves them. -/
theorem configurationWriters : Obligations.ConfigurationWriters := by
  unfold Obligations.ConfigurationWriters
  intro s t r rest hp hstep
  have hframe := frame_of_step hp hstep
  constructor
  · intro hne
    have hw : (requestWrites r).config = true := Bool.eq_true_of_not_eq_false fun hw => hne (hframe.config hw)
    obtain ⟨kind, addr, data, D, C, hr, ha, _⟩ | ⟨sel, args, hr, hsel⟩ | ⟨v, hr, _⟩ := writer_cases Writes.config rfl hw
    · exact .inl ⟨kind, addr, data, D, C, hr, ha⟩
    · exact .inr (.inl ⟨sel, args, hr, hostWrites_config hsel⟩)
    · exact .inr (.inr ⟨v, hr⟩)
  · intro hne
    have hw : (requestWrites r).poc = true := Bool.eq_true_of_not_eq_false fun hw => hne (hframe.poc hw)
    obtain ⟨kind, addr, data, D, C, hr, ha, _⟩ | ⟨sel, args, hr, hsel⟩ | ⟨v, hr, _⟩ := writer_cases Writes.poc rfl hw
    · exact .inl ⟨kind, addr, data, D, C, hr, ha⟩
    · exact .inr (.inl ⟨sel, args, hr, hostWrites_poc hsel⟩)
    · exact .inr (.inr ⟨v, hr⟩)

/-- Settles O38, by `Frame`: HOST.CONSTRUCT alone writes the store. -/
theorem storeWrittenByConstructionOnly : Obligations.StoreWrittenByConstructionOnly := by
  unfold Obligations.StoreWrittenByConstructionOnly
  intro s t r rest hp hstep hne
  have hw : (requestWrites r).store = true :=
    Bool.eq_true_of_not_eq_false fun hw => hne ((frame_of_step hp hstep).store hw)
  obtain ⟨_, _, _, _, _, _, _, hreg⟩ | ⟨sel, args, rfl, hsel⟩ | ⟨_, _, hreg⟩ := writer_cases Writes.store rfl hw
  · exact absurd hreg Bool.false_ne_true
  · exact ⟨args, by rw [hostWrites_store hsel]⟩
  · exact absurd hreg Bool.false_ne_true

/-! ## RP and POC change no access

A simulation: from states that differ only in RP and POC every row of an access leads to states that differ only in them. Every operation of an access but ApplyConfig commutes with setting the two (R25, R26). -/

/-- The state with RP and POC set. -/
def withPower (rp : Bool) (poc : Cycles) (s : State) : State := { s with rp := rp, poc := poc }

/-- Where the first outcome is a state, the second is one that differs from it only in RP and POC. -/
def PowerSim (o o' : Result) : Prop := ∀ t, o = .next t → ∃ rp poc, o' = .next (withPower rp poc t)

section
variable (rp : Bool) (poc : Cycles)

@[simp] theorem withPower_cur (s : State) : (withPower rp poc s).cur = s.cur := rfl
@[simp] theorem withPower_loads (s : State) : (withPower rp poc s).loads = s.loads := rfl

theorem emit_withPower (e : Event) (s : State) : emit e (withPower rp poc s) = withPower rp poc (emit e s) := rfl

theorem ite_withPower (c : Prop) [Decidable c] (s t : State) :
    (if c then withPower rp poc s else withPower rp poc t) = withPower rp poc (if c then s else t) :=
  (apply_ite _ c s t).symm

theorem writeBytes_withPower (a : Nat) (l : List Byte) (s : State) :
    writeBytes a l (withPower rp poc s) = withPower rp poc (writeBytes a l s) := by
  induction l generalizing a s with
  | nil => rfl
  | cons v vs ih => exact ih (a + 1) (writeImg a v s)

theorem processPage_withPower (d : Byte) (s : State) :
    processPage d (withPower rp poc s) = withPower rp poc (processPage d s) := by
  unfold processPage
  dsimp only
  rw [withPower_cur, withPower_loads, emit_withPower, ite_withPower, writeBytes_withPower, ite_withPower]
  rfl

theorem runPages_withPower (k : Nat) (s : State) :
    runPages k (withPower rp poc s) = withPower rp poc (runPages k s) := by
  induction k generalizing s with
  | zero => rfl
  | succ k ih => rw [runPages, withPower_cur, withPower_loads, processPage_withPower, ih, runPages]

theorem loadUnit_withPower (i : Nat) (s : State) :
    loadUnit i (withPower rp poc s) = withPower rp poc (loadUnit i s) := by
  unfold loadUnit
  dsimp only
  rw [withPower_loads, emit_withPower, ite_withPower]
  have hpages (k : Nat) (u : State) : runPages k { withPower rp poc u with cur := ⟨i, 0, false⟩ } =
      withPower rp poc (runPages k { u with cur := ⟨i, 0, false⟩ }) :=
    runPages_withPower rp poc k { u with cur := ⟨i, 0, false⟩ }
  rw [hpages]
  rfl

theorem loadIntoRAM_withPower (id : Byte) (s : State) :
    loadIntoRAM id (withPower rp poc s) = withPower rp poc (loadIntoRAM id s) := by
  unfold loadIntoRAM
  rw [withPower_loads]
  cases findUnit s.loads id with
  | some i => exact loadUnit_withPower rp poc i s
  | none => rfl

theorem triggerLoad_withPower (s : State) :
    triggerLoad (withPower rp poc s) = withPower rp poc (triggerLoad s) :=
  congrArg (returnData loadTrigger)
    (loadIntoRAM_withPower rp poc s.sys.b80 (emit (.masterRead 0x0080#16 s.sys.b80) s))

theorem commitWrite_withPower (a : WindowAddr) (s : State) :
    commitWrite a (withPower rp poc s) = withPower rp poc (commitWrite a s) :=
  ite_withPower rp poc ((resolve a s).1 = 3#2) s (writeImg (targetIndex a s) s.dh s)

/-- ApplyConfig writes RP from its byte, and POC from its byte and `C`, or leaves POC (R140). -/
theorem applyConfig_withPower (v : Byte) (C : Cycles) (s : State) :
    applyConfig v C (withPower rp poc s) =
      withPower (!cfgP v) (if cfgP v then poc else C) (applyConfig v C s) := rfl

theorem classTaken_withPower (i : Instr) (s : State) : classTaken i (withPower rp poc s) = classTaken i s := by
  cases i <;> rfl

theorem powerSim_refl (s : State) : PowerSim (.next s) (.next (withPower rp poc s)) :=
  fun _ ht => ⟨rp, poc, Host.Outcome.next.inj ht ▸ rfl⟩

theorem powerSim_onAccess (a : WindowAddr) {f : State → State} {s : State}
    (h : ∃ rp' poc', f (withPower rp poc s) = withPower rp' poc' (f s)) :
    PowerSim (onAccess a f s) (onAccess a f (withPower rp poc s)) := by
  obtain ⟨rp', poc', hf⟩ := h
  cases ha : inWindow a with
  | false => rw [onAccess_outside ha]; nofun
  | true =>
    cases hs : s.ready with
    | false => rw [onAccess_beforeReset ha hs]; nofun
    | true =>
      rw [onAccess_next ha hs, onAccess_next ha (s := withPower rp poc s) hs, hf]
      exact powerSim_refl rp' poc' (f s)

end

theorem powerSim_andThen {o o' : Result} {f : State → Result} (ho : PowerSim o o')
    (hf : ∀ rp poc t, PowerSim (f t) (f (withPower rp poc t))) : PowerSim (andThen o f) (andThen o' f) := by
  cases o with
  | next s =>
    obtain ⟨rp, poc, rfl⟩ := ho s rfl
    exact hf rp poc s
  | fault e => nofun
  | refused e => nofun

/-- RP and POC decide nothing in a row of an access. -/
theorem powerSim_exec {i : Instr} (hi : i.format = .accessWord) (rp : Bool) (poc : Cycles) (s : State) :
    PowerSim (exec i s) (exec i (withPower rp poc s)) := by
  cases i with
  | accLoad =>
    dsimp only [exec, execAccLoad]
    refine powerSim_onAccess rp poc loadTrigger ⟨rp, poc, ?_⟩
    rw [triggerLoad_withPower]
    exact ite_withPower rp poc (s.p1 = 3#2) (triggerLoad s) s
  | accExpire k a =>
    dsimp only [exec, execAccExpire]
    exact powerSim_onAccess rp poc a ⟨rp, poc, ite_withPower rp poc (gateExpired s = true) { s with wp := false } s⟩
  | accArm k low =>
    dsimp only [exec, execAccArm]
    exact powerSim_onAccess rp poc (armAddr low)
      ⟨rp, poc, ite_withPower rp poc (mayArm s = true) { s with dh := low, na := s.now.D, wp := true } s⟩
  | accConfig k =>
    exact powerSim_onAccess rp poc configHotspot
      ⟨_, _, applyConfig_withPower rp poc s.dh s.now.C { s with wp := false }⟩
  | accCommit k a =>
    dsimp only [exec, execAccCommit]
    refine powerSim_onAccess rp poc a ⟨rp, poc, ?_⟩
    rw [commitWrite_withPower]
    exact ite_withPower rp poc (commitDue s = true) { commitWrite a s with wp := false } s
  | peekData a => exact powerSim_onAccess rp poc a ⟨rp, poc, rfl⟩
  | pokeEnd a => exact powerSim_onAccess rp poc a ⟨rp, poc, rfl⟩
  | _ => exact absurd hi nofun

theorem powerSim_runClasses (l : List Instr) (done : Bool) (rp : Bool) (poc : Cycles) (s : State) :
    PowerSim (runClasses l done s) (runClasses l done (withPower rp poc s)) := by
  induction l generalizing done rp poc s with
  | nil => exact powerSim_refl rp poc s
  | cons i l ih =>
    have htaken := classTaken_withPower rp poc i s
    by_cases h : classTaken i s = true ∧ ¬ (done = true ∧ exclusiveClass i = true)
    · rw [runClasses_cons_of_run l h, runClasses_cons_of_run l (by rwa [htaken])]
      refine powerSim_andThen (powerSim_exec (format_of_classTaken h.1) rp poc s) fun rp poc t => ?_
      split
      · exact powerSim_refl rp poc t
      · exact ih _ rp poc t
    · rw [runClasses_cons_of_skip l h, runClasses_cons_of_skip l (by rwa [htaken])]
      exact ih done rp poc s

theorem powerSim_runAccess (kind : Kind) (a : WindowAddr) (rp : Bool) (poc : Cycles) (s : State) :
    PowerSim (runAccess kind a s) (runAccess kind a (withPower rp poc s)) := by
  cases hl : decodeAccess (accessWord kind a) with
  | error e => simp only [runAccess, hl]; nofun
  | ok l =>
    cases hs : s.ready with
    | false => simp only [runAccess, hl, hs]; nofun
    | true =>
      rw [runAccess_of_decode hl hs, runAccess_of_decode hl (s := withPower rp poc s) hs]
      exact powerSim_runClasses l false rp poc s

/-- Settles O25, by the simulation: both accesses run the same classes, and the states differ only in RP and POC throughout. -/
theorem romPowerChangesNoAccess : Obligations.RomPowerChangesNoAccess := by
  unfold Obligations.RomPowerChangesNoAccess
  intro s t kind addr data D C rest rp poc hp hstep
  rw [step_of_pending hp] at hstep
  obtain ⟨rp', poc', h⟩ := powerSim_runAccess kind (windowAddr addr) rp poc _ t hstep
  have hp' : (withPower rp poc s).pending = .access kind addr data D C :: rest := hp
  exact ⟨withPower rp' poc' t, (step_of_pending hp').trans h, rfl⟩

/-! ## The two windows (R23, R54) -/

/-- No paging mode puts bank 3 in the page-0 window, nor one bank in both windows (R141). -/
theorem modeTable_banks (m : BitVec 3) : (modeTable m).1 ≠ 3#2 ∧ (modeTable m).1 ≠ (modeTable m).2 := by
  revert m; decide

theorem imgIndex_ne {b b' : BankIx} (h : b ≠ b') (o o' : BitVec 11) : imgIndex b o ≠ imgIndex b' o' := by
  have hb : b.toNat ≠ b'.toNat := fun hb => h (BitVec.eq_of_toNat_eq hb)
  have ho := o.isLt
  have ho' := o'.isLt
  unfold imgIndex
  omega

/-- Settles O29: the coherent configuration is a row of the paging table, whose two banks differ. -/
theorem windowsNeverAlias : Obligations.WindowsNeverAlias := by
  unfold Obligations.WindowsNeverAlias
  intro s a b hinv hready ha hb
  obtain ⟨hbanks, _, _⟩ := hinv.coherent hready
  obtain ⟨hrom, hne⟩ : s.p0 ≠ 3#2 ∧ s.p0 ≠ s.p1 := by
    have hmode := modeTable_banks (s.cb.extractLsb' 2 3)
    rwa [← hbanks] at hmode
  have hwa : windowBank a s = s.p0 := if_neg (by rw [ha]; decide)
  have hwb : windowBank b s = s.p1 := if_pos hb
  refine ⟨hrom, imgIndex_ne ?_ _ _⟩
  show windowBank a s ≠ windowBank b s
  rwa [hwa, hwb]

/-! ## Reset, `currentBank`, saves and stores -/

/-- Settles O39: nothing is listed, the store is a constructed one, and the registers are mode 0 as `CB` = 0 says it. -/
theorem resetMeetsInvariant : Obligations.ResetMeetsInvariant where
  wf := rfl
  store := (length_constructStore Config.imageIn).symm ▸ Nat.le_max_right _ _
  coherent := fun _ => ⟨rfl, rfl, rfl⟩
  idle := rfl
  saves := nofun

/-- The row of a configuration byte applies the byte, whole: decoding and assembling it again drops no bit (R140). -/
theorem exec_decodeConfig (v : Byte) (s : State) : exec (decodeConfig v) s = .next (applyConfig v s.now.C s) := by
  have hrow (m : BitVec 3) (hm : (cfgMode v).toNat = m.toNat) :
      (.next (applyConfig (configByte (cfgIgnored v) m (cfgW v) (cfgP v)) s.now.C s) : Result) =
        .next (applyConfig v s.now.C s) := by
    rw [← BitVec.eq_of_toNat_eq hm, configByte_fields]
  unfold decodeConfig
  split
  next h => exact hrow 0#3 h
  next h => exact hrow 1#3 h
  next h => exact hrow 2#3 h
  next h => exact hrow 3#3 h
  next h => exact hrow 4#3 h
  next h => exact hrow 5#3 h
  next h => exact hrow 6#3 h
  next =>
    refine hrow 7#3 (?_ : (cfgMode v).toNat = 7)
    have := (cfgMode v).isLt
    simp only [imp_false] at *
    omega

/-- Settles O47: the row of `v` is ApplyConfig of `v`, which leaves `v[4:0]` in `CB`. -/
theorem currentBankReturnsLastConfiguration : Obligations.CurrentBankReturnsLastConfiguration := by
  unfold Obligations.CurrentBankReturnsLastConfiguration
  intro v s
  have hcb : (applyConfig v s.now.C s).cb = BitVec.ofNat 5 (v.toNat % 32) := by
    rw [applyConfig_eq_configured]; rfl
  exact ⟨rfl, _, exec_decodeConfig v s, by rw [← hcb]; rfl⟩

/-- A store reaches only the scratch byte whose address it names (R57, R227). -/
theorem sysRam_store (m : SysRam) (x : BitVec 16) (v : Byte) :
    m.store x v = ⟨if x.toNat = 0x80 then v else m.b80, if x.toNat = 0xFE then v else m.bFE,
      if x.toNat = 0xFF then v else m.bFF⟩ := by
  have haddr (n : Nat) (hn : n < 65536) : x.toNat = n ↔ x = BitVec.ofNat 16 n := by
    rw [← BitVec.toNat_inj, BitVec.toNat_ofNat, Nat.mod_eq_of_lt hn]
  rw [SysRam.store]
  simp only [haddr 0x80 (by decide), haddr 0xFE (by decide), haddr 0xFF (by decide)]
  split
  next h => subst h; rfl
  next h80 =>
    split
    next h => subst h; rfl
    next hFE => split <;> rfl

/-- Settles O51: a save changes the queue and the outputs, a store beside them the scratch byte it names. -/
theorem outsideMovesLeaveTheBlock : Obligations.OutsideMovesLeaveTheBlock := by
  unfold Obligations.OutsideMovesLeaveTheBlock
  constructor
  · intro s rest hp
    exact ⟨saveState (present .save rest s), step_of_pending hp⟩
  · intro s x v rest hp
    refine ⟨s.sys.store x v, step_of_pending hp, ?_⟩
    rw [sysRam_store]
    exact ⟨rfl, rfl, rfl⟩

end Sys2Proof.Machine

/-! PROOFS. The family of memory: what is delivered to the block and what is refused, the multiplexer, quiet peeks, and what a load sends out. -/

namespace Sys2Proof.Machine

/-! ## What the decoders read and what they refuse (R51, R75, R78, R79) -/

theorem decodeAccess_outside {W : BitVec 14} (h : inWindow (wordAddr W) = false) :
    decodeAccess W = .error .outsideWindow := by
  rw [decodeAccess, h]; rfl

theorem decodeAccess_delivered {W : BitVec 14} (h : inWindow (wordAddr W) = true) :
    ∃ l, decodeAccess W = .ok l :=
  ⟨_, if_pos h⟩

theorem decodeHost_listed {sel : BitVec 4} (h : sel.toNat ≤ 8) : ∃ i, decodeHost sel = .ok i := by
  unfold decodeHost
  split
  case h_10 => simp only [imp_false] at *; omega
  all_goals exact ⟨_, rfl⟩

theorem decodeHost_unlisted {sel : BitVec 4} (h : 8 < sel.toNat) : decodeHost sel = .error .noSuchOperation := by
  unfold decodeHost
  split
  case h_10 => rfl
  all_goals omega

/-- Bit 12 of the address in an access word, as the word's number has it. -/
theorem inWindow_wordAddr_ofNat (w : Nat) :
    inWindow (wordAddr (BitVec.ofNat 14 w)) = decide (w / 4096 % 2 = 1) := by
  rw [inWindow, wordAddr, BitVec.getLsbD_setWidth, BitVec.getLsbD_ofNat, Nat.testBit_eq_decide_div_mod_eq]
  rfl

section
variable {w : Nat}

theorem decode_accessWord (h : w < 16384) : decode .accessWord w = decodeAccess (BitVec.ofNat 14 w) := if_pos h

theorem decode_configByte (h : w < 256) : decode .configByte w = .ok [decodeConfig (BitVec.ofNat 8 w)] := if_pos h

theorem decode_pageDescriptor (h : w < 256) :
    decode .pageDescriptor w = .ok [decodeDescriptor (BitVec.ofNat 8 w)] := if_pos h

theorem decode_hostSelector (h : w < 16) :
    decode .hostSelector w = (decodeHost (BitVec.ofNat 4 w)).map fun i => [i] := by
  rw [decode, if_pos (show w < 2 ^ Format.hostSelector.bits from h)]
  cases decodeHost (BitVec.ofNat 4 w) <;> rfl

end

/-- Settles O3: each format's decoder is total but for bit 12 of an access word and the unlisted selectors. -/
theorem decodeRefusesOnlyTheUnlisted : Obligations.DecodeRefusesOnlyTheUnlisted := by
  unfold Obligations.DecodeRefusesOnlyTheUnlisted
  have hsel {w : Nat} (h : w < 16) : (BitVec.ofNat 4 w).toNat = w := Nat.mod_eq_of_lt h
  refine ⟨fun w h => ⟨⟨_, decode_configByte h⟩, _, decode_pageDescriptor h⟩, ?_, ?_, ?_, ?_⟩
  · intro w h hbit
    rw [decode_accessWord h]
    exact decodeAccess_outside (by rw [inWindow_wordAddr_ofNat, hbit]; rfl)
  · intro w h hbit
    rw [decode_accessWord h]
    exact decodeAccess_delivered (by rw [inWindow_wordAddr_ofNat, hbit]; rfl)
  · intro w h
    obtain ⟨i, hi⟩ := decodeHost_listed (sel := BitVec.ofNat 4 w) (by rw [hsel (by omega)]; exact h)
    exact ⟨i, by rw [decode_hostSelector (by omega), hi]; rfl⟩
  · intro w h h16
    rw [decode_hostSelector h16, decodeHost_unlisted (by rw [hsel h16]; exact h)]
    rfl

/-! ## What never reaches the block (R51, R283) -/

theorem runAccess_outside {kind : Kind} {a : WindowAddr} (ha : a.getLsbD 12 = false) (s : State) :
    runAccess kind a s = .refused .outsideWindow := by
  rw [runAccess, decodeAccess_outside (by rw [wordAddr_accessWord]; exact ha)]

theorem runAccess_beforeReset {kind : Kind} {a : WindowAddr} {s : State} (ha : a.getLsbD 12 = true)
    (hs : s.ready = false) : runAccess kind a s = .refused .beforeReset := by
  obtain ⟨l, hl⟩ := decodeAccess_delivered (W := accessWord kind a) (by rw [wordAddr_accessWord]; exact ha)
  rw [runAccess, hl, hs]
  rfl

/-- An access that completes was delivered, after a reset. -/
theorem delivered_of_runAccess {kind : Kind} {a : WindowAddr} {s t : State} (h : runAccess kind a s = .next t) :
    a.getLsbD 12 = true ∧ s.ready = true := by
  cases ha : a.getLsbD 12 with
  | false => rw [runAccess_outside ha] at h; cases h
  | true =>
    cases hs : s.ready with
    | false => rw [runAccess_beforeReset ha hs] at h; cases h
    | true => exact ⟨rfl, rfl⟩

theorem runHost_unlisted {sel : BitVec 4} (h : 8 < sel.toNat) (s : State) :
    runHost sel s = .refused .noSuchOperation := by
  rw [runHost, decodeHost_unlisted h]

/-- The mask of R51 keeps bit 12. -/
theorem windowAddr_getLsbD_12 (addr : BitVec 16) : (windowAddr addr).getLsbD 12 = addr.getLsbD 12 := by
  simp [windowAddr]

/-- Settles O9: the decoder refuses the first and the third, the access itself the second. -/
theorem undeliveredOperationsAreRefused : Obligations.UndeliveredOperationsAreRefused := by
  unfold Obligations.UndeliveredOperationsAreRefused
  refine ⟨?_, ?_, ?_⟩
  · intro s kind addr data D C rest hp ha
    rw [step_of_pending hp]
    exact runAccess_outside (by rwa [windowAddr_getLsbD_12]) _
  · intro s kind addr data D C rest hp ha hs
    rw [step_of_pending hp]
    exact runAccess_beforeReset (by rwa [windowAddr_getLsbD_12]) hs
  · intro s sel args rest hp hsel
    rw [step_of_pending hp]
    exact runHost_unlisted hsel _

/-- Settles O10: each class begins with `onAccess`, of its own operand or of an address that lies in the window. -/
theorem accessClassesRefuseUndelivered : Obligations.AccessClassesRefuseUndelivered := by
  unfold Obligations.AccessClassesRefuseUndelivered
  constructor
  · intro k a s ha
    exact ⟨onAccess_outside ha, onAccess_outside ha, onAccess_outside ha, onAccess_outside ha⟩
  · intro k low a s ha hs
    have hload : inWindow loadTrigger = true := rfl
    have hconfig : exec (.accConfig k) s = .refused .beforeReset := by
      rw [exec, execAccConfig, onAccess_beforeReset rfl hs]
    exact ⟨onAccess_beforeReset hload hs, onAccess_beforeReset ha hs, onAccess_beforeReset (inWindow_armAddr low) hs,
      hconfig, onAccess_beforeReset ha hs, onAccess_beforeReset ha hs,
      onAccess_beforeReset ha hs⟩

/-! ## The multiplexer, and what of an access is ignored (R52, R53, R51, R73) -/

/-- Settles O16: the model's bit test and field are the division and the remainder of the address. -/
theorem resolveGivesBackingIndex : Obligations.ResolveGivesBackingIndex := by
  unfold Obligations.ResolveGivesBackingIndex
  exact fun a s => ⟨windowBank_eq_backingBank a s, BitVec.toNat_setWidth 11 a, targetIndex_eq_backingIndex a s,
    imgIndex_lt_8192 _ _⟩

theorem windowAddr_congr {addr addr' : BitVec 16} (h : addr.toNat % 8192 = addr'.toNat % 8192) :
    windowAddr addr = windowAddr addr' := by
  apply BitVec.eq_of_toNat_eq
  rw [windowAddr, windowAddr, toNat_windowAddr, toNat_windowAddr, h]

/-- Settles O23: an access is run on its window address, and of what comes with it only `D` and `C` are latched. -/
theorem upperAddressBitsAndDataIgnored : Obligations.UpperAddressBitsAndDataIgnored := by
  unfold Obligations.UpperAddressBitsAndDataIgnored
  intro s kind addr addr' data data' D C rest h
  rw [step_of_pending rfl, step_of_pending rfl]
  exact congrArg (runAccess kind · _) (windowAddr_congr h)

/-! ## The classes of a delivered access (R72) -/

/-- Filter, map and filter again: each element by itself gives one element or none. -/
theorem filter_map_filter_eq_flatMap {α β : Type} (p : α → Bool) (f : α → β) (q : β → Bool) (l : List α) :
    ((l.filter p).map f).filter q = l.flatMap fun x => if p x = true ∧ q (f x) = true then [f x] else [] := by
  induction l with
  | nil => rfl
  | cons x l ih =>
    rw [List.flatMap_cons, ← ih]
    cases hp : p x <;> cases hq : q (f x) <;> simp [hp, hq]

/-- The decode classes of a delivered access, in the priority order of R72. -/
theorem decodeAccess_accessWord (kind : Kind) {a : WindowAddr} (ha : a.getLsbD 12 = true) :
    decodeAccess (accessWord kind a) = .ok
      ((if kind = .peek ∧ a = 0x1850#13 then [Instr.accLoad] else []) ++ Instr.accExpire kind a ::
        ((if a.toNat / 256 % 16 = 0 then [Instr.accArm kind (a.setWidth 8)] else []) ++
          (if a = 0x1FF8#13 then Instr.accConfig kind else Instr.accCommit kind a) ::
          [if kind = .peek then Instr.peekData a else Instr.pokeEnd a])) := by
  have hin : inWindow a = true := ha
  rw [decodeAccess, wordKind_accessWord, wordAddr_accessWord, if_pos hin, filter_map_filter_eq_flatMap]
  -- each row of R72 by itself, its mask read as a condition on the kind and the address
  simp only [accessRows, List.flatMap_cons, List.flatMap_nil, AccessRow.fits, decide_eq_true_eq, mask_load,
    mask_window, mask_arm kind ha, mask_config, mask_peek kind ha, mask_poke kind ha, Instr.wellFormed, ha, hin,
    Bool.true_and, true_and, and_true, if_true]
  by_cases hhot : a = 0x1FF8#13 <;> cases kind <;> simp [hhot]

/-- Classes whose state condition fails change nothing. -/
theorem runClasses_append_of_idle {l l' : List Instr} {done : Bool} {s : State}
    (h : ∀ i ∈ l, classTaken i s = false) : runClasses (l ++ l') done s = runClasses l' done s := by
  induction l with
  | nil => rfl
  | cons i l ih =>
    have hi : ¬ classTaken i s = true := Bool.not_eq_true _ ▸ h i List.mem_cons_self
    rw [List.cons_append, runClasses_cons_of_skip _ fun hrun => hi hrun.1]
    exact ih fun j hj => h j (List.mem_cons_of_mem i hj)

/-- A class that is listed only under `c` and not taken there. -/
theorem idle_of_mem_ite {c : Prop} [Decidable c] {j : Instr} {s : State} (h : c → classTaken j s = false) :
    ∀ i ∈ if c then [j] else [], classTaken i s = false := by
  intro i hi
  split at hi
  next hc => rw [List.mem_singleton.mp hi]; exact h hc
  next => exact absurd hi List.not_mem_nil

/-! ## The expiry pre-step (R103) -/

/-- The state after the expiry pre-step of an access. -/
def expired (s : State) : State := if gateExpired s then { s with wp := false } else s

theorem expired_eq (s : State) : expired s = { s with wp := (expired s).wp } := by
  unfold expired; split <;> rfl

theorem expired_wp (s : State) : (expired s).wp = (s.wp && !decide (s.now.D > s.na + 5#32)) := by
  unfold expired
  rw [gateExpired_eq]
  cases hwp : s.wp <;> by_cases hD : s.now.D > s.na + 5#32 <;> simp [hwp, hD]

theorem runClasses_accExpire {kind : Kind} {a : WindowAddr} {s : State} (ha : a.getLsbD 12 = true)
    (hs : s.ready = true) (l : List Instr) :
    runClasses (.accExpire kind a :: l) false s = runClasses l false (expired s) := by
  have htaken : classTaken (.accExpire kind a) s = gateExpired s := rfl
  have hexec : exec (.accExpire kind a) s = .next (expired s) := onAccess_next ha hs
  by_cases h : gateExpired s = true
  · rw [runClasses_cons_of_run l ⟨htaken.trans h, fun hdone => Bool.false_ne_true hdone.1⟩, hexec]
    rfl
  · rw [runClasses_cons_of_skip l fun hrun => h (htaken ▸ hrun.1), expired, if_neg h]

/-! ## Quiet peeks (R61) -/

section
variable {a : WindowAddr} {s : State}

/-- In a quiet access the gate cannot arm, expired or not. -/
theorem mayArm_expired_of_quiet (hq : Quiet .peek a s) (harm : a.toNat / 256 % 16 = 0) :
    mayArm (expired s) = false := by
  obtain ⟨_, _, hnoArm, _⟩ := hq
  rw [mayArm_eq, expired_eq, expired_wp]
  simpa [harm] using hnoArm

theorem commitDue_expired_of_quiet (hq : Quiet .peek a s) : commitDue (expired s) = false := by
  obtain ⟨_, _, _, hnoCommit⟩ := hq
  rw [commitDue_eq, expired_eq, expired_wp, decide_eq_false_iff_not]
  rintro ⟨hwe, hwp, hD⟩
  exact hnoCommit ⟨hwe, (Bool.and_eq_true_iff.mp hwp).1, hD⟩

/-- A quiet peek expires the gate where that is due and returns the byte its address resolves to; it takes no other class. -/
theorem runAccess_of_quiet (hq : Quiet .peek a s) (ha : a.getLsbD 12 = true) (hs : s.ready = true) :
    runAccess .peek a s = .next (returnData a (expired s)) := by
  have hready : (expired s).ready = true := by rw [expired_eq]; exact hs
  have hcommit : ¬ classTaken (.accCommit .peek a) (expired s) = true :=
    Bool.not_eq_true _ ▸ commitDue_expired_of_quiet hq
  have ⟨hnoLoad, hnoHot, _, _⟩ := hq
  rw [runAccess_of_decode (decodeAccess_accessWord .peek ha) hs, runClasses_append_of_idle,
    runClasses_accExpire ha hs, runClasses_append_of_idle, if_neg hnoHot,
    runClasses_cons_of_skip _ fun hrun => hcommit hrun.1]
  · have hpeek : exec (.peekData a) (expired s) = .next (returnData a (expired s)) := onAccess_next ha hready
    rw [if_pos rfl, runClasses_cons_of_run [] ⟨rfl, fun hdone => Bool.false_ne_true hdone.1⟩, hpeek]
    rfl
  · exact idle_of_mem_ite (mayArm_expired_of_quiet hq)
  · exact idle_of_mem_ite fun hload => decide_eq_false fun hp1 => hnoLoad ⟨hload.1, hload.2, hp1⟩

end

/-- What decides the byte that a window address reads as is the same in both states. -/
structure SameView (s t : State) : Prop where
  img : t.img = s.img
  ready : t.ready = s.ready
  epoch : t.epoch = s.epoch
  p0 : t.p0 = s.p0
  p1 : t.p1 = s.p1

theorem SameView.targetByte {s t : State} (h : SameView s t) (a : WindowAddr) :
    imgByte t (targetIndex a t) = imgByte s (targetIndex a s) := by
  have hindex : targetIndex a t = targetIndex a s := by
    unfold targetIndex resolve windowBank
    rw [h.p0, h.p1]
  rw [hindex, imgByte_congr h.img h.ready h.epoch]

/-- What a quiet peek that completes returns, what it leaves unchanged, and the queue after it. -/
theorem step_of_quiet {s t : State} {addr : BitVec 16} {data : Byte} {D : Count} {C : Cycles} {rest : List Request}
    (hp : s.pending = .access .peek addr data D C :: rest)
    (hq : Quiet .peek (addr.setWidth 13) { s with now := { s.now with D := D } }) (h : step s = .next t) :
    t.ret = .byte (imgByte s (targetIndex (windowAddr addr) s)) ∧ SameView s t ∧ t.pending = rest := by
  rw [step_of_pending hp] at h
  obtain ⟨ha, hs⟩ := delivered_of_runAccess h
  have hq' : Quiet .peek (windowAddr addr) (present (.access .peek addr data D C) rest s) := hq
  have ht := (runAccess_of_quiet hq' ha hs).symm.trans h
  rw [expired_eq] at ht
  cases ht
  exact ⟨rfl, ⟨rfl, rfl, rfl, rfl, rfl⟩, rfl⟩

/-- Settles O24: both peeks return the byte that the address reads as, and the first leaves the view unchanged. -/
theorem quietPeeksRepeat : Obligations.QuietPeeksRepeat := by
  unfold Obligations.QuietPeeksRepeat
  intro s t u addr data data' D D' C C' rest hp hq hst hq' htu
  obtain ⟨hret, hview, hpending⟩ := step_of_quiet hp hq hst
  obtain ⟨hret', _, _⟩ := step_of_quiet hpending hq' htu
  rw [hret, hret', hview.targetByte]

/-! ## What a load sends out (R163, R166 to R174)

The page loop reports the first page whose checksum fails, and nothing else. -/

/-- The checksum of page `j` of unit `i` fails (R170). -/
def badPage (loads : List Byte) (i j : Nat) : Bool := !pageValid loads i j (pageDescriptor loads i j)

/-- The diagnostic of the bad page of unit `i`, if there is one (R171). -/
def pageReport (i : Nat) (bad : Option Nat) : List Event :=
  match bad with
  | some j => [.diag (.pageChecksumInvalid i j)]
  | none => []

theorem processPage_loads (d : Byte) (s : State) : (processPage d s).loads = s.loads := by
  rw [processPage_eq]

theorem processPage_cur (d : Byte) (s : State) :
    (processPage d s).cur = ⟨s.cur.unit, s.cur.page + 1,
      s.cur.seen || (!s.cur.seen && !pageValid s.loads s.cur.unit s.cur.page d)⟩ := rfl

theorem processPage_events (d : Byte) (s : State) :
    (processPage d s).events = s.events ++
      if !s.cur.seen && !pageValid s.loads s.cur.unit s.cur.page d then
        pageReport s.cur.unit (some s.cur.page) else [] := by
  unfold processPage
  dsimp only
  split <;> split <;> simp [pageReport]

/-- Of `k` pages from the cursor on, the first bad one is reported, unless one was before. -/
theorem runPages_events (k : Nat) (s : State) :
    (runPages k s).events = s.events ++ pageReport s.cur.unit
      (if s.cur.seen then none else (List.range' s.cur.page k).find? (badPage s.loads s.cur.unit)) := by
  induction k generalizing s with
  | zero => simp [runPages, pageReport]
  | succ k ih =>
    rw [runPages, ih, processPage_events, processPage_cur, processPage_loads, List.range'_succ, List.find?_cons,
      badPage]
    cases s.cur.seen with
    | true => simp [pageReport]
    | false =>
      cases pageValid s.loads s.cur.unit s.cur.page (pageDescriptor s.loads s.cur.unit s.cur.page) <;>
        simp [pageReport]

theorem loadUnit_sys (i : Nat) (s : State) :
    (loadUnit i s).sys = ⟨headerByte s.loads i 2, headerByte s.loads i 0, headerByte s.loads i 1⟩ := rfl

theorem loadUnit_events (i : Nat) (s : State) :
    (loadUnit i s).events = s.events ++
      (if headerValid s.loads i then [] else [Event.diag (.headerChecksumInvalid i)]) ++
      pageReport i ((List.range (pageCount s.loads i)).find? (badPage s.loads i)) ++
      [Event.masterWrite 0x00FE#16 (headerByte s.loads i 0), Event.masterWrite 0x00FF#16 (headerByte s.loads i 1),
        Event.masterWrite 0x0080#16 (headerByte s.loads i 2), Event.bankChanged] := by
  unfold loadUnit
  dsimp only
  simp only [emit_events, sysWrite_events, runPages_events]
  cases headerValid s.loads i <;> simp [List.range_eq_range']

/-! ## The checksums, from the store's bytes -/

section
variable {loads : List Byte} {i : Nat} (hi : i < unitCount loads)
include hi

theorem headerValid_eq : headerValid loads i = decide (storedHeaderSum loads i = 0x55) := by
  rw [headerValid, decide_eq_decide, ← BitVec.toNat_inj, sum8_header hi]
  rfl

theorem badPage_eq {j : Nat} (hj : j < 32) : badPage loads i j = decide (storedPageSum loads i j ≠ 0x55) := by
  rw [badPage, pageValid, ← decide_not, decide_eq_decide, ← BitVec.toNat_inj, sum8_page _ hi hj,
    pageDescriptor_eq _ _ hj]
  rfl

theorem find?_badPage :
    (List.range (pageCount loads i)).find? (badPage loads i) = firstBadPage loads i := by
  rw [firstBadPage, ← pageCount_eq]
  refine List.find?_congr fun j hj => badPage_eq hi ?_
  exact (List.mem_range.mp hj).trans_le (pageCount_le loads i)

end

/-- Settles O34: the events of the load in order, with the checksums as sums over the store. -/
theorem loadEmitsInOrder : Obligations.LoadEmitsInOrder := by
  unfold Obligations.LoadEmitsInOrder
  intro s i hs hp1 hfirst h
  have hi : i < unitCount s.loads := hfirst.1
  have hh (k : Nat) (hk : k < 256) : headerByte s.loads i k = h k := headerByte_eq s.loads i hk
  have hexec : exec .accLoad s = .next (triggerLoad s) := by
    rw [exec, execAccLoad, onAccess_next rfl hs, if_pos hp1]
  have hload : triggerLoad s =
      returnData loadTrigger (loadUnit i (emit (.masterRead 0x0080#16 s.sys.b80) s)) := by
    rw [triggerLoad, loadIntoRAM, emit_loads, (findUnit_eq_some _ _ _).mpr hfirst]
  refine ⟨_, hexec, ?_, ?_⟩
  · rw [hload, returnData, returning_sys, loadUnit_sys, emit_loads, hh 0 (by decide), hh 1 (by decide),
      hh 2 (by decide)]
  · rw [hload, returnData, returning_events, loadUnit_events, emit_events, emit_loads, headerValid_eq hi,
      find?_badPage hi, hh 0 (by decide), hh 1 (by decide), hh 2 (by decide)]
    simp only [decide_eq_true_eq]
    rfl

end Sys2Proof.Machine

/-! PROOFS. The family of the encodings: decoding and encoding are inverse to each other, the classes of an access word, and the banks of the mode field. -/

namespace Sys2Proof.Machine

/-! ## The access word (R71, R72) -/

theorem setWidth_armAddr (low : Byte) : (armAddr low).setWidth 8 = low := BitVec.setWidth_append_eq_right

/-- The addresses of the arming accesses have a[11:8] = 0 (R72). -/
theorem toNat_armAddr_page (low : Byte) : (armAddr low).toNat / 256 % 16 = 0 := by
  rw [← windowAddr_high, armAddr, BitVec.extractLsb'_append_eq_left]; rfl

/-- The classes that the masks of R72 admit for an access, with the condition of each. -/
inductive AccessClass (kind : Kind) (a : WindowAddr) : Instr → Prop where
  | load (hkind : kind = .peek) (ha : a = 0x1850#13) : AccessClass kind a .accLoad
  | expire : AccessClass kind a (.accExpire kind a)
  | arm (ha : a.toNat / 256 % 16 = 0) : AccessClass kind a (.accArm kind (a.setWidth 8))
  | config (ha : a = 0x1FF8#13) : AccessClass kind a (.accConfig kind)
  | commit (ha : a ≠ 0x1FF8#13) : AccessClass kind a (.accCommit kind a)
  | peek (hkind : kind = .peek) : AccessClass kind a (.peekData a)
  | poke (hkind : kind = .poke) : AccessClass kind a (.pokeEnd a)

theorem mem_decodeAccess_iff {kind : Kind} {a : WindowAddr} {l : List Instr} (ha : a.getLsbD 12 = true)
    (hl : decodeAccess (accessWord kind a) = .ok l) (i : Instr) : i ∈ l ↔ AccessClass kind a i := by
  rw [decodeAccess_accessWord kind ha] at hl
  cases hl
  simp only [List.mem_append, List.mem_cons, List.mem_ite_nil_right, List.not_mem_nil, or_false]
  constructor
  · rintro (⟨⟨hkind, ha⟩, rfl⟩ | rfl | ⟨ha, rfl⟩ | rfl | rfl)
    · exact .load hkind ha
    · exact .expire
    · exact .arm ha
    · split
      next hhot => exact .config hhot
      next hhot => exact .commit hhot
    · cases kind with
      | peek => exact .peek rfl
      | poke => exact .poke rfl
  · rintro (⟨hkind, ha⟩ | _ | ha | ha | ha | hkind | hkind) <;> simp [*]

/-- Instruction `i` is what word `w` of format `f` says, and `w` says all of it: the operands meet their checks and no bit is dropped. -/
def Reads (f : Format) (w : Nat) (i : Instr) : Prop := i.wellFormed = true ∧ i.format = f ∧ encode i = w

/-- Every class of a delivered access holds the whole access word: its operands are the kind and the address, or its mask fixes them. -/
theorem AccessClass.reads {kind : Kind} {a : WindowAddr} {i : Instr} (ha : a.getLsbD 12 = true)
    (h : AccessClass kind a i) : Reads .accessWord (accessWord kind a).toNat i := by
  cases h with
  | load hkind hload => subst hkind hload; exact ⟨rfl, rfl, rfl⟩
  | expire => exact ⟨ha, rfl, rfl⟩
  | arm hpage => exact ⟨rfl, rfl, congrArg (fun x => (accessWord kind x).toNat) (armAddr_low ha hpage)⟩
  | config hhot => subst hhot; exact ⟨rfl, rfl, rfl⟩
  | commit hhot => exact ⟨Bool.and_eq_true_iff.mpr ⟨ha, decide_eq_true hhot⟩, rfl, rfl⟩
  | peek hkind | poke hkind => subst hkind; exact ⟨ha, rfl, rfl⟩

/-- The other direction: an access row is a class of the delivered access that its word says. -/
theorem exists_accessClass {i : Instr} (hf : i.format = .accessWord) (hi : i.wellFormed = true) :
    ∃ kind a, a.getLsbD 12 = true ∧ AccessClass kind a i ∧ encode i = (accessWord kind a).toNat := by
  cases i with
  | accLoad => exact ⟨.peek, 0x1850#13, rfl, .load rfl rfl, rfl⟩
  | accExpire kind a => exact ⟨kind, a, hi, .expire, rfl⟩
  | accArm kind low =>
    have harm := AccessClass.arm (kind := kind) (toNat_armAddr_page low)
    rw [setWidth_armAddr] at harm
    exact ⟨kind, armAddr low, inWindow_armAddr low, harm, rfl⟩
  | accConfig kind => exact ⟨kind, 0x1FF8#13, rfl, .config rfl, rfl⟩
  | accCommit kind a =>
    obtain ⟨ha, hhot⟩ := Bool.and_eq_true_iff.mp hi
    exact ⟨kind, a, ha, .commit (of_decide_eq_true hhot), rfl⟩
  | peekData a => exact ⟨.peek, a, hi, .peek rfl, rfl⟩
  | pokeEnd a => exact ⟨.poke, a, hi, .poke rfl, rfl⟩
  | _ => cases hf

theorem reads_of_decodeAccess {W : BitVec 14} {w : Nat} {l : List Instr} (hw : W.toNat = w)
    (h : decodeAccess W = .ok l) : l ≠ [] ∧ ∀ i ∈ l, Reads .accessWord w i := by
  subst hw
  cases ha : inWindow (wordAddr W) with
  | false => rw [decodeAccess_outside ha] at h; cases h
  | true =>
    rw [← accessWord_wordKind_wordAddr W] at h ⊢
    exact ⟨List.ne_nil_of_mem ((mem_decodeAccess_iff ha h _).mpr .expire),
      fun i hi => ((mem_decodeAccess_iff ha h i).mp hi).reads ha⟩

theorem decodeAccess_encode {i : Instr} (hf : i.format = .accessWord) (hi : i.wellFormed = true) :
    ∃ l, decodeAccess (BitVec.ofNat 14 (encode i)) = .ok l ∧ i ∈ l := by
  obtain ⟨kind, a, ha, hclass, hw⟩ := exists_accessClass hf hi
  have hl := decodeAccess_accessWord kind ha
  rw [hw, BitVec.ofNat_toNat, BitVec.setWidth_eq]
  exact ⟨_, hl, (mem_decodeAccess_iff ha hl i).mpr hclass⟩

/-! ## The configuration byte (R74, R75) -/

theorem reads_decodeConfig (v : Byte) : Reads .configByte v.toNat (decodeConfig v) := by
  -- the encoder assembles the fields with the row's own mode, which is the byte's
  have hrow (m : BitVec 3) (hm : (cfgMode v).toNat = m.toNat) :
      (configByte (cfgIgnored v) m (cfgW v) (cfgP v)).toNat = v.toNat := by
    rw [← BitVec.eq_of_toNat_eq hm, configByte_fields]
  unfold decodeConfig
  split
  next h => exact ⟨rfl, rfl, hrow 0#3 h⟩
  next h => exact ⟨rfl, rfl, hrow 1#3 h⟩
  next h => exact ⟨rfl, rfl, hrow 2#3 h⟩
  next h => exact ⟨rfl, rfl, hrow 3#3 h⟩
  next h => exact ⟨rfl, rfl, hrow 4#3 h⟩
  next h => exact ⟨rfl, rfl, hrow 5#3 h⟩
  next h => exact ⟨rfl, rfl, hrow 6#3 h⟩
  next =>
    refine ⟨rfl, rfl, hrow 7#3 (?_ : (cfgMode v).toNat = 7)⟩
    have := (cfgMode v).isLt
    simp only [imp_false] at *
    omega

theorem decodeConfig_encode {i : Instr} (hf : i.format = .configByte) :
    decodeConfig (BitVec.ofNat 8 (encode i)) = i := by
  cases i with
  | cfgMode0 g w p | cfgMode1 g w p | cfgMode2 g w p | cfgMode3 g w p | cfgMode4 g w p | cfgMode5 g w p
  | cfgMode6 g w p | cfgMode7 g w p =>
    obtain ⟨hg, hm, hw, hp, _⟩ := fields_configByte g _ w p
    rw [encode, BitVec.ofNat_toNat, BitVec.setWidth_eq, decodeConfig, hg, hm, hw, hp]
    rfl
  | _ => cases hf

/-! ## The page descriptor (R78) -/

theorem reads_decodeDescriptor (d : Byte) : Reads .pageDescriptor d.toNat (decodeDescriptor d) := by
  have hrow (b : BankIx) (hb : (descBank d).toNat = b.toNat) :
      (descriptorByte (descIgnored d) (descPage d) b).toNat = d.toNat := by
    rw [← BitVec.eq_of_toNat_eq hb, descriptorByte_fields]
  unfold decodeDescriptor
  split
  next h => exact ⟨rfl, rfl, hrow 0#2 h⟩
  next h => exact ⟨rfl, rfl, hrow 1#2 h⟩
  next h => exact ⟨rfl, rfl, hrow 2#2 h⟩
  next =>
    refine ⟨rfl, rfl, hrow 3#2 (?_ : (descBank d).toNat = 3)⟩
    have := (descBank d).isLt
    simp only [imp_false] at *
    omega

theorem decodeDescriptor_encode {i : Instr} (hf : i.format = .pageDescriptor) :
    decodeDescriptor (BitVec.ofNat 8 (encode i)) = i := by
  cases i with
  | descBank0 g q | descBank1 g q | descBank2 g q | descRom g q =>
    obtain ⟨hg, hq, hb, _⟩ := fields_descriptorByte g q _
    rw [encode, BitVec.ofNat_toNat, BitVec.setWidth_eq, decodeDescriptor, hg, hq, hb]
    rfl
  | _ => cases hf

/-! ## The host selector (R79) -/

theorem reads_of_decodeHost {sel : BitVec 4} {i : Instr} (h : decodeHost sel = .ok i) :
    Reads .hostSelector sel.toNat i := by
  unfold decodeHost at h
  split at h
  case h_10 => cases h
  all_goals next hsel => cases h; exact ⟨rfl, rfl, hsel.symm⟩

theorem decodeHost_encode {i : Instr} (hf : i.format = .hostSelector) :
    decodeHost (BitVec.ofNat 4 (encode i)) = .ok i := by
  cases i with
  | hostInstall | hostReset | hostSetbank | hostCurrentbank | hostBankcount | hostPatch | hostRawimage
  | hostOnsystemcyclesreset | hostConstruct => rfl
  | _ => cases hf

/-! ## The two round trips -/

/-- The word of an instruction has no more bits than its format (R71, R74, R78, R79). -/
theorem encode_lt (i : Instr) : encode i < 2 ^ i.format.bits := by
  cases i with
  | accLoad | accExpire | accArm | accConfig | accCommit | peekData | pokeEnd => exact BitVec.isLt _
  | cfgMode0 | cfgMode1 | cfgMode2 | cfgMode3 | cfgMode4 | cfgMode5 | cfgMode6 | cfgMode7 => exact BitVec.isLt _
  | descBank0 | descBank1 | descBank2 | descRom => exact BitVec.isLt _
  | _ => decide

/-- Outside the access word an instruction is the only one its word is read as. -/
theorem decode_encode_of_ne_accessWord {i : Instr} (hf : i.format ≠ .accessWord) :
    decode i.format (encode i) = .ok [i] := by
  have hlt := encode_lt i
  cases h : i.format with
  | accessWord => exact absurd h hf
  | configByte => rw [h] at hlt; rw [decode_configByte hlt, decodeConfig_encode h]
  | pageDescriptor => rw [h] at hlt; rw [decode_pageDescriptor hlt, decodeDescriptor_encode h]
  | hostSelector => rw [h] at hlt; rw [decode_hostSelector hlt, decodeHost_encode h]; rfl

/-- Settles O1: an access row lies in the classes of its word, any other row is the one its fields select. -/
theorem decodeListsEncodedInstruction : Obligations.DecodeListsEncodedInstruction := by
  unfold Obligations.DecodeListsEncodedInstruction
  intro i hi
  by_cases hf : i.format = .accessWord
  · obtain ⟨l, hl, hmem⟩ := decodeAccess_encode hf hi
    have hlt := encode_lt i
    rw [hf] at hlt
    exact ⟨l, by rw [hf, decode_accessWord hlt, hl], hmem, fun hne => absurd hf hne⟩
  · exact ⟨[i], decode_encode_of_ne_accessWord hf, List.mem_singleton_self i, fun _ => rfl⟩

/-- A word that is read has no more bits than its format. -/
theorem lt_of_decode {f : Format} {w : Nat} {l : List Instr} (h : decode f w = .ok l) : w < 2 ^ f.bits := by
  by_contra hw
  have herror : decode f w = .error .tooWide := if_neg hw
  rw [herror] at h
  cases h

theorem reads_singleton {f : Format} {w w' : Nat} {i : Instr} (hw : w' = w) (h : Reads f w' i) :
    [i] ≠ [] ∧ ∀ j ∈ [i], Reads f w j :=
  ⟨List.cons_ne_nil i [], fun _ hj => List.mem_singleton.mp hj ▸ hw ▸ h⟩

/-- Settles O2, format by format: the word fits the format's bits, so its fields are all of it. -/
theorem decodedInstructionEncodesBack : Obligations.DecodedInstructionEncodesBack := by
  unfold Obligations.DecodedInstructionEncodesBack
  intro f w l h
  have hlt := lt_of_decode h
  have hw : (BitVec.ofNat f.bits w).toNat = w := Nat.mod_eq_of_lt hlt
  cases f with
  | accessWord =>
    rw [decode_accessWord hlt] at h
    exact reads_of_decodeAccess hw h
  | configByte =>
    rw [decode_configByte hlt] at h
    cases h
    exact reads_singleton hw (reads_decodeConfig _)
  | pageDescriptor =>
    rw [decode_pageDescriptor hlt] at h
    cases h
    exact reads_singleton hw (reads_decodeDescriptor _)
  | hostSelector =>
    rw [decode_hostSelector hlt] at h
    cases hd : decodeHost (BitVec.ofNat 4 w) with
    | error e => rw [hd] at h; cases h
    | ok i =>
      rw [hd] at h
      cases h
      exact reads_singleton hw (reads_of_decodeHost hd)

/-! ## The classes in order, the words of the spec, the mode field -/

/-- Settles O4: the classes of a delivered access, with the low address byte as a number. -/
theorem accessWordClassesInPriorityOrder : Obligations.AccessWordClassesInPriorityOrder := by
  unfold Obligations.AccessWordClassesInPriorityOrder
  intro kind a ha
  have hlow : a.setWidth 8 = BitVec.ofNat 8 (a.toNat % 256) := by
    apply BitVec.eq_of_toNat_eq
    rw [BitVec.toNat_setWidth, BitVec.toNat_ofNat, Nat.mod_mod]
  rw [decodeAccess_accessWord kind ha, hlow]
  by_cases hhot : a = 0x1FF8#13 <;> simp [hhot]

/-- Settles O5: each word is a closed term, which the decoder reads by evaluation. -/
theorem specWordsDecode : Obligations.SpecWordsDecode := by
  unfold Obligations.SpecWordsDecode
  exact ⟨rfl, rfl, rfl, rfl, rfl, rfl⟩

/-- Settles O27: the row of `v` is ApplyConfig of `v`, which takes the banks from the table at `v[4:2]`. -/
theorem modeFieldSelectsBanks : Obligations.ModeFieldSelectsBanks := by
  unfold Obligations.ModeFieldSelectsBanks
  intro v s
  refine ⟨_, exec_decodeConfig v s, ?_⟩
  rw [applyConfig_eq_configured, configured]
  dsimp only
  generalize v.toNat / 4 % 8 = m
  refine ⟨?_, ?_, ?_, ?_, ?_, ?_, ?_, ?_⟩
  all_goals rintro rfl; exact ⟨rfl, rfl⟩

end Sys2Proof.Machine

/-! PROOFS. The family of the bus access: each class as a function of the state, a whole access as their composition, and from that composition rule R100, the gate, the commits, the hotspot and the load trigger. -/

namespace Sys2Proof.Machine

/-! ## The classes as functions of the state (R102 to R109)

A delivered class always completes, so what it leaves is a function of the state. `expired` is the one of ACC.EXPIRE. -/

/-- The state after ACC.ARM. -/
def armed (low : Byte) (s : State) : State :=
  if mayArm s then { s with dh := low, na := s.now.D, wp := true } else s

/-- The state after ACC.CONFIG. -/
def reconfigured (s : State) : State := applyConfig s.dh s.now.C { s with wp := false }

/-- The state after ACC.COMMIT. -/
def committed (a : WindowAddr) (s : State) : State :=
  if commitDue s then { commitWrite a s with wp := false } else s

/-- The state after PEEK.DATA or POKE.END, whichever ends the access. -/
def answered (kind : Kind) (a : WindowAddr) (s : State) : State :=
  match kind with
  | .peek => returnData a s
  | .poke => returning .nothing s

section
variable {a : WindowAddr} {s : State}

theorem exec_accExpire (k : Kind) (ha : a.getLsbD 12 = true) (hs : s.ready = true) :
    exec (.accExpire k a) s = .next (expired s) := onAccess_next ha hs

theorem exec_accArm (k : Kind) (low : Byte) (hs : s.ready = true) :
    exec (.accArm k low) s = .next (armed low s) := onAccess_next (inWindow_armAddr low) hs

theorem exec_accConfig (k : Kind) (hs : s.ready = true) : exec (.accConfig k) s = .next (reconfigured s) :=
  onAccess_next (a := configHotspot) (f := reconfigured) rfl hs

theorem exec_accCommit (k : Kind) (ha : a.getLsbD 12 = true) (hs : s.ready = true) :
    exec (.accCommit k a) s = .next (committed a s) := onAccess_next ha hs

theorem exec_peekData (ha : a.getLsbD 12 = true) (hs : s.ready = true) :
    exec (.peekData a) s = .next (answered .peek a s) := onAccess_next ha hs

theorem exec_pokeEnd (ha : a.getLsbD 12 = true) (hs : s.ready = true) :
    exec (.pokeEnd a) s = .next (answered .poke a s) := onAccess_next ha hs

theorem exec_accLoad_taken (hs : s.ready = true) (hp1 : s.p1 = 3#2) : exec .accLoad s = .next (triggerLoad s) := by
  rw [exec, execAccLoad, onAccess_next rfl hs, if_pos hp1]

theorem exec_accLoad_idle (hs : s.ready = true) (hp1 : s.p1 ≠ 3#2) : exec .accLoad s = .next s := by
  rw [exec, execAccLoad, onAccess_next rfl hs, if_neg hp1]

end

/-! ## What each class writes -/

theorem answered_peek (a : WindowAddr) (s : State) :
    answered .peek a s = { s with ret := .byte (imgByte s (backingIndex a s)) } := by
  rw [← targetIndex_eq_backingIndex]; rfl

theorem commitWrite_eq_ite (a : WindowAddr) (s : State) :
    commitWrite a s = if backingBank a s ≠ 3#2 then writeImg (backingIndex a s) s.dh s else s := by
  rw [ite_not, ← windowBank_eq_backingBank, ← targetIndex_eq_backingIndex]; rfl

theorem committed_eq (a : WindowAddr) (s : State) :
    committed a s = { s with img := (committed a s).img, wp := (committed a s).wp } := by
  unfold committed
  split
  · rw [commitWrite_eq]
  · rfl

theorem committed_wp (a : WindowAddr) (s : State) : (committed a s).wp = (s.wp && !commitDue s) := by
  unfold committed
  cases h : commitDue s with
  | true => exact (Bool.and_false s.wp).symm
  | false => exact (Bool.and_true s.wp).symm

/-- What a commit leaves at every index (R106, R107). -/
theorem imgByte_committed (a : WindowAddr) (s : State) (x : Nat) :
    imgByte (committed a s) x =
      if commitDue s = true ∧ backingBank a s ≠ 3#2 ∧ x = backingIndex a s then s.dh else imgByte s x := by
  have hbank : (resolve a s).1 = backingBank a s := windowBank_eq_backingBank a s
  have hwrite : imgByte { commitWrite a s with wp := false } x = imgByte (commitWrite a s) x := rfl
  unfold committed
  cases h : commitDue s with
  | true => simp [hwrite, imgByte_commitWrite, hbank, targetIndex_eq_backingIndex]
  | false => simp

/-- `NA + 5` modulo 2^32, as a number (R103). -/
theorem toNat_gateTarget (na : Count) : (na + 5#32).toNat = (na.toNat + 5) % 4294967296 := BitVec.toNat_add na 5#32

/-! ## The obligations on single classes -/

/-- Settles O14: the class is `committed`, whose bytes and flag are its two rules. -/
theorem commitWritesDataHoldAtTarget : Obligations.CommitWritesDataHoldAtTarget := by
  unfold Obligations.CommitWritesDataHoldAtTarget
  intro k a s ha hs
  have hdue : commitDue s = true ↔
      s.we = true ∧ s.wp = true ∧ s.now.D.toNat = (s.na.toNat + 5) % 4294967296 := by
    rw [commitDue_eq, decide_eq_true_iff, ← BitVec.toNat_inj, toNat_gateTarget]
  refine ⟨committed a s, exec_accCommit k ha hs, committed_eq a s, ?_, fun x => ?_⟩
  · rw [committed_wp, Bool.and_eq_true_iff, Bool.not_eq_true', ← Bool.not_eq_true, hdue]
    tauto
  · simp only [imgByte_committed, hdue, and_assoc]

/-- Settles O11: the comparison of the gate, on numbers. -/
theorem expireCancelsBeyondFive : Obligations.ExpireCancelsBeyondFive := by
  unfold Obligations.ExpireCancelsBeyondFive
  intro k a s ha hs
  rw [exec_accExpire k ha hs, expired_eq, expired_wp]
  simp only [gt_iff_lt, BitVec.lt_def, toNat_gateTarget]

/-- Settles O12: the gate's condition as the two flags. -/
theorem armLatchesLowAddressByte : Obligations.ArmLatchesLowAddressByte := by
  unfold Obligations.ArmLatchesLowAddressByte
  intro k low s hs
  rw [exec_accArm k low hs, armed, mayArm_eq]
  simp only [decide_eq_true_eq]

/-- Settles O13: both sides are ApplyConfig of `DH` with `WP` cleared. -/
theorem configHotspotAppliesDataHold : Obligations.ConfigHotspotAppliesDataHold := by
  unfold Obligations.ConfigHotspotAppliesDataHold
  intro k s hs
  rw [exec_accConfig k hs, exec_decodeConfig, reconfigured, applyConfig_eq_configured]
  exact ⟨rfl, rfl⟩

/-- Settles O15: the two ends of an access write the returned value only. -/
theorem dataReturnWritesNothing : Obligations.DataReturnWritesNothing := by
  unfold Obligations.DataReturnWritesNothing
  intro a s ha hs
  rw [exec_peekData ha hs, exec_pokeEnd ha hs, answered_peek]
  exact ⟨rfl, rfl⟩

/-! ## A whole access (R100) -/

/-- The state after the exclusive classes 3 to 5, of which an access takes at most one (R72). -/
def gated (a : WindowAddr) (s : State) : State :=
  if a.toNat / 256 % 16 = 0 ∧ mayArm s = true then armed (a.setWidth 8) s
  else if a = 0x1FF8#13 then reconfigured s
  else committed a s

/-- The access is the load trigger, and meets it (R102). -/
abbrev Triggers (kind : Kind) (a : WindowAddr) (s : State) : Prop := kind = .peek ∧ a = 0x1850#13 ∧ s.p1 = 3#2

/-- The state after an access that is not the load trigger: expiry, one exclusive class, the answer. -/
def plainAccess (kind : Kind) (a : WindowAddr) (s : State) : State := answered kind a (gated a (expired s))

section
variable {kind : Kind} {a : WindowAddr} {s : State}

theorem expired_ready (s : State) : (expired s).ready = s.ready := by rw [expired_eq]

theorem expired_dh (s : State) : (expired s).dh = s.dh := by rw [expired_eq]

theorem expired_na (s : State) : (expired s).na = s.na := by rw [expired_eq]

theorem armed_ready (low : Byte) (s : State) : (armed low s).ready = s.ready := by unfold armed; split <;> rfl

theorem reconfigured_ready (s : State) : (reconfigured s).ready = s.ready := rfl

theorem committed_ready (a : WindowAddr) (s : State) : (committed a s).ready = s.ready := by rw [committed_eq]

/-- A class that is taken, not excluded, and not the load trigger passes its state on to the next classes. -/
theorem runClasses_cons_of_next {i : Instr} {done : Bool} {s t : State} (l : List Instr) (hi : i ≠ .accLoad)
    (htaken : classTaken i s = true) (hfree : ¬ (done = true ∧ exclusiveClass i = true)) (hexec : exec i s = .next t) :
    runClasses (i :: l) done s = runClasses l (done || exclusiveClass i) t := by
  rw [runClasses_cons_of_run l ⟨htaken, hfree⟩, hexec, andThen_next, if_neg (mt (endsAccess_iff i).mp hi)]

/-- The last class of an access, whether or not an exclusive class was run before. -/
theorem runClasses_answer (done : Bool) (ha : a.getLsbD 12 = true) (hs : s.ready = true) :
    runClasses [if kind = .peek then Instr.peekData a else Instr.pokeEnd a] done s = .next (answered kind a s) := by
  cases kind with
  | peek => exact runClasses_cons_of_next [] nofun rfl (fun h => nomatch h.2) (exec_peekData ha hs)
  | poke => exact runClasses_cons_of_next [] nofun rfl (fun h => nomatch h.2) (exec_pokeEnd ha hs)

theorem runClasses_accArm (low : Byte) (l : List Instr) (h : mayArm s = true) (hs : s.ready = true) :
    runClasses (.accArm kind low :: l) false s = runClasses l true (armed low s) :=
  runClasses_cons_of_next l nofun h nofun (exec_accArm kind low hs)

theorem runClasses_accConfig (l : List Instr) (hs : s.ready = true) :
    runClasses (.accConfig kind :: l) false s = runClasses l true (reconfigured s) :=
  runClasses_cons_of_next l nofun rfl nofun (exec_accConfig kind hs)

/-- A commit that is not due is not run, which is what its own guard amounts to. -/
theorem runClasses_accCommit (l : List Instr) (ha : a.getLsbD 12 = true) (hs : s.ready = true) :
    runClasses (.accCommit kind a :: l) false s = runClasses l (commitDue s) (committed a s) := by
  cases h : commitDue s with
  | true => exact runClasses_cons_of_next l nofun h nofun (exec_accCommit kind ha hs)
  | false =>
    have htaken : classTaken (.accCommit kind a) s = false := h
    rw [runClasses_cons_of_skip l fun hrun => Bool.false_ne_true (htaken.symm.trans hrun.1), committed, h]
    rfl

/-- The exclusive classes and the answer, from the state after the expiry. -/
theorem runClasses_gated (ha : a.getLsbD 12 = true) (hs : s.ready = true) :
    runClasses ((if a.toNat / 256 % 16 = 0 then [Instr.accArm kind (a.setWidth 8)] else []) ++
      (if a = 0x1FF8#13 then Instr.accConfig kind else Instr.accCommit kind a) ::
      [if kind = .peek then Instr.peekData a else Instr.pokeEnd a]) false s = .next (answered kind a (gated a s)) := by
  by_cases harm : a.toNat / 256 % 16 = 0 ∧ mayArm s = true
  · have hexcl : exclusiveClass (if a = 0x1FF8#13 then Instr.accConfig kind else Instr.accCommit kind a) = true := by
      split <;> rfl
    rw [if_pos harm.1, List.singleton_append, gated, if_pos harm,
      runClasses_accArm _ _ harm.2 hs,
      runClasses_cons_of_skip _ fun hrun => hrun.2 ⟨rfl, hexcl⟩,
      runClasses_answer _ ha (by rwa [armed_ready])]
  · rw [runClasses_append_of_idle (idle_of_mem_ite fun hpage => Bool.not_eq_true _ ▸ fun hmay => harm ⟨hpage, hmay⟩),
      gated, if_neg harm]
    by_cases hhot : a = 0x1FF8#13
    · rw [if_pos hhot, if_pos hhot, runClasses_accConfig _ hs,
        runClasses_answer _ ha (by rwa [reconfigured_ready])]
    · rw [if_neg hhot, if_neg hhot, runClasses_accCommit _ ha hs, runClasses_answer _ ha (by rwa [committed_ready])]

theorem runAccess_of_triggers (h : Triggers kind a s) (hs : s.ready = true) :
    runAccess kind a s = .next (triggerLoad s) := by
  obtain ⟨rfl, rfl, hp1⟩ := h
  have htaken : classTaken .accLoad s = true := decide_eq_true hp1
  rw [runAccess_of_decode (decodeAccess_accessWord .peek rfl) hs, if_pos ⟨rfl, rfl⟩, List.singleton_append,
    runClasses_cons_of_run _ ⟨htaken, fun h => Bool.false_ne_true h.1⟩, exec_accLoad_taken hs hp1]
  rfl

theorem runAccess_of_not_triggers (h : ¬ Triggers kind a s) (ha : a.getLsbD 12 = true) (hs : s.ready = true) :
    runAccess kind a s = .next (plainAccess kind a s) := by
  rw [runAccess_of_decode (decodeAccess_accessWord kind ha) hs, runClasses_append_of_idle,
    runClasses_accExpire ha hs, runClasses_gated ha (by rwa [expired_ready])]
  · rfl
  · exact idle_of_mem_ite fun hload => decide_eq_false fun hp1 => h ⟨hload.1, hload.2, hp1⟩

/-! ## Rule R100's pseudocode -/

/-- The exclusive classes as R100 writes them. -/
theorem gated_eq (a : WindowAddr) (s : State) :
    gated a s =
      if a.toNat / 256 % 16 = 0 ∧ (s.we = false ∨ s.wp = false) then
        { s with dh := a.setWidth 8, na := s.now.D, wp := true }
      else if a = 0x1FF8#13 then reconfigured s
      else if s.we = true ∧ s.wp = true ∧ s.now.D = s.na + 5#32 then
        { (if backingBank a s ≠ 3#2 then writeImg (backingIndex a s) s.dh s else s) with wp := false }
      else s := by
  have harm : (s.we = false ∨ s.wp = false) ↔ mayArm s = true := by rw [mayArm_eq, decide_eq_true_iff]
  have hdue : (s.we = true ∧ s.wp = true ∧ s.now.D = s.na + 5#32) ↔ commitDue s = true := by
    rw [commitDue_eq, decide_eq_true_iff]
  simp only [harm, hdue, ← commitWrite_eq_ite]
  unfold gated committed armed
  split
  next h => rw [if_pos h.2]
  next => rfl

theorem accessR100_of_triggers (h : Triggers kind a s) : accessR100 kind a s = triggerLoad s := by
  obtain ⟨rfl, rfl, hp1⟩ := h
  have htarget (t : State) : t.p1.toNat * 2048 + (0x1850#13).toNat % 2048 = targetIndex loadTrigger t := by
    rw [targetIndex_eq_backingIndex]; rfl
  rw [accessR100, if_pos ⟨rfl, rfl, hp1⟩]
  simp only [htarget]
  rfl

theorem accessR100_of_not_triggers (h : ¬ Triggers kind a s) : accessR100 kind a s = plainAccess kind a s := by
  rw [accessR100, if_neg h]
  have hexpired : (if s.wp = true ∧ s.now.D > s.na + 5#32 then { s with wp := false } else s) = expired s := by
    rw [expired, gateExpired_eq]; simp only [decide_eq_true_eq]
  rw [plainAccess, gated_eq, ← hexpired]
  cases kind with
  | peek => rw [answered_peek]; rfl
  | poke => rfl

/-- A delivered access is R100's pseudocode. -/
theorem runAccess_eq_accessR100 (ha : a.getLsbD 12 = true) (hs : s.ready = true) :
    runAccess kind a s = .next (accessR100 kind a s) := by
  by_cases h : Triggers kind a s
  · rw [runAccess_of_triggers h hs, accessR100_of_triggers h]
  · rw [runAccess_of_not_triggers h ha hs, accessR100_of_not_triggers h]

end

/-- A step on an access that is delivered after a reset. -/
theorem step_of_access {s : State} {kind : Kind} {addr : BitVec 16} {data : Byte} {D : Count} {C : Cycles}
    {rest : List Request} (hp : s.pending = .access kind addr data D C :: rest) (hs : s.ready = true)
    (ha : (windowAddr addr).getLsbD 12 = true) :
    step s = .next (accessR100 kind (windowAddr addr) (present (.access kind addr data D C) rest s)) :=
  (step_of_pending hp).trans (runAccess_eq_accessR100 ha hs)

/-- Settles O7: the classes of the access and the pseudocode are the same function of the state. -/
theorem accessStepIsR100 : Obligations.AccessStepIsR100 := by
  unfold Obligations.AccessStepIsR100
  intro s kind addr data D C rest hp hs ha
  exact step_of_access hp hs (by rwa [windowAddr_getLsbD_12])

theorem triggers_present_iff {kind : Kind} {addr : BitVec 16} {r : Request} {rest : List Request} {s : State} :
    Triggers kind (windowAddr addr) (present r rest s) ↔
      kind = .peek ∧ addr.toNat % 8192 = 0x1850 ∧ s.p1 = 3#2 := by
  rw [Triggers, windowAddr, windowAddr_eq_iff addr (by decide), present_p1]

/-! ## The exclusive classes of an access, case by case -/

theorem answered_eq (kind : Kind) (a : WindowAddr) (s : State) :
    answered kind a s = { s with ret := (answered kind a s).ret } := by
  cases kind <;> rfl

theorem expired_wp_iff (s : State) : (expired s).wp = true ↔ s.wp = true ∧ ¬ s.na + 5#32 < s.now.D := by
  rw [expired_wp, Bool.and_eq_true_iff, Bool.not_eq_true', decide_eq_false_iff_not]

/-- The gate may arm after the expiry where it is idle, has expired, or writes are disabled. -/
theorem mayArm_expired_iff (s : State) :
    mayArm (expired s) = true ↔ s.wp = false ∨ s.na + 5#32 < s.now.D ∨ s.we = false := by
  rw [mayArm_eq, decide_eq_true_iff, ← Bool.not_eq_true (expired s).wp, expired_wp_iff, expired_eq]
  simp only [← Bool.not_eq_true]
  tauto

/-- A write that is due has not expired. -/
theorem commitDue_expired (s : State) : commitDue (expired s) = commitDue s := by
  rw [commitDue_eq, commitDue_eq, decide_eq_decide, expired_wp_iff, expired_eq]
  constructor
  · rintro ⟨hwe, ⟨hwp, _⟩, hD⟩
    exact ⟨hwe, hwp, hD⟩
  · rintro ⟨hwe, hwp, hD⟩
    exact ⟨hwe, ⟨hwp, hD ▸ BitVec.lt_irrefl _⟩, hD⟩

section
variable {a : WindowAddr} {s : State}

theorem gated_of_arm (h : a.toNat / 256 % 16 = 0 ∧ mayArm s = true) :
    gated a s = { s with dh := a.setWidth 8, na := s.now.D, wp := true } := by
  rw [gated, if_pos h, armed, if_pos h.2]

theorem gated_of_commit (h : ¬ (a.toNat / 256 % 16 = 0 ∧ mayArm s = true)) (ha : a ≠ 0x1FF8#13) :
    gated a s = committed a s := by
  rw [gated, if_neg h, if_neg ha]

theorem gated_hotspot (s : State) : gated 0x1FF8#13 s = reconfigured s := rfl

/-- The gate where it does not arm: the hotspot and a due write clear `WP` (R111). -/
theorem gated_of_not_arm (h : ¬ (a.toNat / 256 % 16 = 0 ∧ mayArm s = true)) :
    (gated a s).dh = s.dh ∧ (gated a s).na = s.na ∧
      ((gated a s).wp = true ↔ s.wp = true ∧ a ≠ 0x1FF8#13 ∧ ¬ commitDue s = true) := by
  by_cases ha : a = 0x1FF8#13
  · subst ha
    exact ⟨rfl, rfl, fun hwp => absurd hwp Bool.false_ne_true, fun hwp => absurd rfl hwp.2.1⟩
  · rw [gated_of_commit h ha, committed_eq]
    refine ⟨rfl, rfl, ?_⟩
    rw [committed_wp, Bool.and_eq_true_iff, Bool.not_eq_true', Bool.not_eq_true]
    exact and_congr_right fun _ => (and_iff_right ha).symm

/-- Of the exclusive classes only the commit writes the bank array (R110). -/
theorem commit_of_imgByte_ne {x : Nat} (h : imgByte (gated a s) x ≠ imgByte s x) :
    a ≠ 0x1FF8#13 ∧ commitDue s = true ∧ backingBank a s ≠ 3#2 ∧ x = backingIndex a s ∧
      imgByte (gated a s) x = s.dh := by
  by_cases harm : a.toNat / 256 % 16 = 0 ∧ mayArm s = true
  · rw [gated_of_arm harm] at h
    exact absurd rfl h
  by_cases ha : a = 0x1FF8#13
  · subst ha
    exact absurd rfl h
  rw [gated_of_commit harm ha, imgByte_committed] at h ⊢
  by_cases hcommit : commitDue s = true ∧ backingBank a s ≠ 3#2 ∧ x = backingIndex a s
  · rw [if_pos hcommit]
    obtain ⟨hdue, hbank, hx⟩ := hcommit
    exact ⟨ha, hdue, hbank, hx, rfl⟩
  · rw [if_neg hcommit] at h
    exact absurd rfl h

end

/-! ## An access that is not the load trigger -/

section
variable {kind : Kind} {a : WindowAddr} {s : State}

/-- The answer writes the returned value only. -/
theorem plainAccess_eq (kind : Kind) (a : WindowAddr) (s : State) :
    plainAccess kind a s = { gated a (expired s) with ret := (plainAccess kind a s).ret } :=
  answered_eq kind a (gated a (expired s))

theorem plainAccess_of_arm (kind : Kind) (a : WindowAddr) (s : State)
    (h : a.toNat / 256 % 16 = 0 ∧ (s.wp = false ∨ s.na + 5#32 < s.now.D ∨ s.we = false)) :
    (plainAccess kind a s).wp = true ∧ (plainAccess kind a s).dh = a.setWidth 8 ∧
      (plainAccess kind a s).na = s.now.D := by
  rw [← mayArm_expired_iff] at h
  rw [plainAccess_eq, gated_of_arm h, expired_eq]
  exact ⟨rfl, rfl, rfl⟩

theorem plainAccess_of_not_arm (kind : Kind) (a : WindowAddr) (s : State)
    (h : ¬ (a.toNat / 256 % 16 = 0 ∧ (s.wp = false ∨ s.na + 5#32 < s.now.D ∨ s.we = false))) :
    (plainAccess kind a s).dh = s.dh ∧ (plainAccess kind a s).na = s.na ∧
      ((plainAccess kind a s).wp = true ↔ s.wp = true ∧ ¬ s.na + 5#32 < s.now.D ∧ a ≠ 0x1FF8#13 ∧
        ¬ (s.we = true ∧ s.now.D = s.na + 5#32)) := by
  rw [← mayArm_expired_iff] at h
  obtain ⟨hdh, hna, hwp⟩ := gated_of_not_arm h
  rw [commitDue_expired, commitDue_eq, decide_eq_true_iff, expired_wp_iff] at hwp
  rw [expired_dh] at hdh
  rw [expired_na] at hna
  rw [plainAccess_eq]
  refine ⟨hdh, hna, hwp.trans ?_⟩
  tauto

/-- The write-commit invariant (R110). -/
theorem commit_of_plainAccess_ne {x : Nat} (h : imgByte (plainAccess kind a s) x ≠ imgByte s x) :
    s.we = true ∧ s.wp = true ∧ s.now.D = s.na + 5#32 ∧ a ≠ 0x1FF8#13 ∧ backingBank a s ≠ 3#2 ∧
      x = backingIndex a s ∧ imgByte (plainAccess kind a s) x = s.dh := by
  have hbyte : imgByte (plainAccess kind a s) x = imgByte (gated a (expired s)) x := by rw [plainAccess_eq]; rfl
  have hexpired : imgByte s x = imgByte (expired s) x := by rw [expired_eq]; rfl
  rw [hbyte, hexpired] at h
  obtain ⟨hhot, hdue, hbank, hx, hdh⟩ := commit_of_imgByte_ne h
  rw [commitDue_expired, commitDue_eq, decide_eq_true_iff] at hdue
  obtain ⟨hwe, hwp, hD⟩ := hdue
  rw [expired_eq] at hbank hx
  exact ⟨hwe, hwp, hD, hhot, hbank, hx, by rw [hbyte, hdh, expired_eq]⟩

/-- The configuration class clears `WP` itself: what the expiry did to it is lost. -/
theorem plainAccess_hotspot (kind : Kind) (s : State) :
    plainAccess kind 0x1FF8#13 s = answered kind 0x1FF8#13 (configured s.dh s.now.C { s with wp := false }) := by
  rw [plainAccess, gated_hotspot, reconfigured, applyConfig_eq_configured, expired_eq]

end

/-! ## The obligations on whole accesses -/

section
variable {s : State} {kind : Kind} {addr : BitVec 16} {data : Byte} {D : Count} {C : Cycles} {rest : List Request}
variable (hp : s.pending = .access kind addr data D C :: rest)
include hp

theorem step_of_not_triggers (h : ¬ (kind = .peek ∧ addr.toNat % 8192 = 0x1850 ∧ s.p1 = 3#2)) (hs : s.ready = true)
    (ha : (windowAddr addr).getLsbD 12 = true) :
    step s = .next (plainAccess kind (windowAddr addr) (present (.access kind addr data D C) rest s)) := by
  rw [step_of_access hp hs ha, accessR100_of_not_triggers (mt triggers_present_iff.mp h)]

theorem step_of_triggers (h : kind = .peek ∧ addr.toNat % 8192 = 0x1850 ∧ s.p1 = 3#2) (hs : s.ready = true) :
    step s = .next (triggerLoad (present (.access kind addr data D C) rest s)) := by
  have ha : windowAddr addr = 0x1850#13 := (windowAddr_eq_iff addr (by decide)).mpr h.2.1
  rw [step_of_access hp hs (by rw [ha]; rfl), accessR100_of_triggers (triggers_present_iff.mpr h)]

/-- A step on an access that completes was delivered, after a reset. -/
theorem delivered_of_step {t : State} (h : step s = .next t) :
    (windowAddr addr).getLsbD 12 = true ∧ s.ready = true := by
  rw [step_of_pending hp] at h
  exact delivered_of_runAccess (s := present (.access kind addr data D C) rest s) h

end

theorem windowAddr_ne_hotspot_iff (addr : BitVec 16) :
    windowAddr addr ≠ 0x1FF8#13 ↔ addr.toNat % 8192 ≠ 0x1FF8 := not_congr (windowAddr_eq_iff addr (by decide))

/-- Settles O18: arming, and otherwise the gate that the expiry and the exclusive class leave. -/
theorem gateFollowsStateMachine : Obligations.GateFollowsStateMachine := by
  unfold Obligations.GateFollowsStateMachine
  intro s kind addr data D C rest hp hs ha hload
  rw [← windowAddr_getLsbD_12] at ha
  have hpage : addr.toNat / 256 % 16 = (windowAddr addr).toNat / 256 % 16 := by
    rw [windowAddr, toNat_windowAddr]; omega
  have hlow : (windowAddr addr).setWidth 8 = addr.setWidth 8 := BitVec.setWidth_setWidth_of_le addr (by decide)
  rw [hpage, ← hlow, ← windowAddr_ne_hotspot_iff]
  exact ⟨_, step_of_not_triggers hp hload hs ha,
    plainAccess_of_arm kind (windowAddr addr) (present (.access kind addr data D C) rest s),
    plainAccess_of_not_arm kind (windowAddr addr) (present (.access kind addr data D C) rest s)⟩

/-- Settles O19: the access is not the load trigger, so the byte differs by its commit. -/
theorem bankArrayChangesOnlyByCommit : Obligations.BankArrayChangesOnlyByCommit := by
  unfold Obligations.BankArrayChangesOnlyByCommit
  intro s t kind addr data D C rest hp hstep hload x hx
  obtain ⟨ha, hs⟩ := delivered_of_step hp hstep
  rw [step_of_not_triggers hp hload hs ha] at hstep
  cases hstep
  rw [← windowAddr_ne_hotspot_iff]
  exact commit_of_plainAccess_ne hx

/-- Settles O20: the hotspot's class is taken alone, and the answer reads the new mapping. -/
theorem hotspotAccessReconfigures : Obligations.HotspotAccessReconfigures := by
  unfold Obligations.HotspotAccessReconfigures
  intro s kind addr data D C rest hp hs haddr
  have ha : windowAddr addr = 0x1FF8#13 := (windowAddr_eq_iff addr (by decide)).mpr haddr
  have hstep := step_of_not_triggers hp (fun h => by omega) hs (by rw [ha]; rfl)
  rw [ha, plainAccess_hotspot] at hstep
  refine ⟨_, hstep, ?_, ?_, ?_⟩
  · rw [answered_eq]; rfl
  · rintro rfl; rw [answered_peek]; rfl
  · rintro rfl; rfl

/-- Settles O22: an access that is not the load trigger depends on the kind in its answer only. -/
theorem pokeActsAsPeekWithoutReturn : Obligations.PokeActsAsPeekWithoutReturn := by
  unfold Obligations.PokeActsAsPeekWithoutReturn
  intro s t addr data data' D C rest hload hstep
  obtain ⟨ha, hs⟩ := delivered_of_step rfl hstep
  have hpeek := step_of_not_triggers (s := { s with pending := .access .peek addr data D C :: rest }) rfl
    (fun h => hload h.2) hs ha
  have hpoke := step_of_not_triggers (s := { s with pending := .access .poke addr data' D C :: rest }) rfl nofun hs ha
  cases hpeek.symm.trans hstep
  exact hpoke

/-! ## The load trigger (R102, R163, R172) -/

/-- The load trigger leaves the registers, the store and the queue (R175). -/
theorem triggerLoad_eq (s : State) :
    triggerLoad s = { s with
      img := (triggerLoad s).img
      sys := (triggerLoad s).sys
      cur := (triggerLoad s).cur
      ret := (triggerLoad s).ret
      events := (triggerLoad s).events } := by
  unfold triggerLoad returnData
  rw [loadIntoRAM_eq]
  rfl

/-- Settles O21: the load writes neither the gate nor the configuration, and the access ends with it. -/
theorem loadTriggerSkipsGate : Obligations.LoadTriggerSkipsGate := by
  unfold Obligations.LoadTriggerSkipsGate
  intro s addr data D C rest hp hs haddr hp1
  refine ⟨_, step_of_triggers hp ⟨rfl, haddr, hp1⟩ hs, ?_⟩
  rw [triggerLoad_eq]
  exact ⟨rfl, rfl, rfl, rfl, rfl, rfl, rfl, rfl, rfl, rfl⟩

/-- A page leaves every byte that it is not copied over (R163, R172). -/
theorem imgByte_processPage_of_not_covers {d : Byte} {s : State} {x : Nat}
    (h : descBank d ≠ 3#2 → x < pageDest d ∨ pageDest d + 256 ≤ x) : imgByte (processPage d s) x = imgByte s x := by
  have hcopy (u : State) (hu : imgByte u x = imgByte s x) : imgByte (if descBank d = 3#2 then u
      else writeBytes (pageDest d) (pageSource s.loads s.cur.unit s.cur.page) u) x = imgByte s x := by
    split
    · exact hu
    next hbank =>
      have hlen := pageSource_length_le s.loads s.cur.unit s.cur.page
      have hx := h hbank
      rw [imgByte_writeBytes_outside _ _ (by omega), hu]
  unfold processPage
  exact hcopy _ (by split <;> rfl)

/-- The pages of a load leave every byte that none of them covers. -/
theorem imgByte_runPages_of_not_covers {k x : Nat} {s : State} (hk : s.cur.page + k ≤ 32)
    (h : ∀ j, s.cur.page ≤ j → j < s.cur.page + k → ¬ PageCovers s.loads s.cur.unit j x) :
    imgByte (runPages k s) x = imgByte s x := by
  induction k generalizing s with
  | zero => rfl
  | succ k ih =>
    rw [runPages, ih, imgByte_processPage_of_not_covers]
    · have hfirst := h s.cur.page le_rfl (by omega)
      obtain ⟨hdest, hbank⟩ := pageDest_eq (storedDescriptor s.loads s.cur.unit s.cur.page)
      rw [pageDescriptor_eq _ _ (by omega), hdest, Ne, hbank]
      unfold PageCovers at hfirst
      omega
    · rw [processPage_cur]
      dsimp only
      omega
    · rw [processPage_cur, processPage_loads]
      exact fun j hj hlt => h j (by dsimp only at hj; omega) (by dsimp only at hlt; omega)

theorem imgByte_setCur (c : LoadCursor) (s : State) (x : Nat) : imgByte { s with cur := c } x = imgByte s x := rfl

theorem imgByte_loadUnit_of_not_covers {i x : Nat} {s : State}
    (h : ∀ j, j < storedCount s.loads i → ¬ PageCovers s.loads i j x) : imgByte (loadUnit i s) x = imgByte s x := by
  have hpages (u : State) (hloads : u.loads = s.loads) (hu : imgByte u x = imgByte s x) :
      imgByte (runPages (pageCount s.loads i) { u with cur := ⟨i, 0, false⟩ }) x = imgByte s x := by
    have hcount : 0 + pageCount s.loads i ≤ 32 := by
      rw [Nat.zero_add]; exact pageCount_le s.loads i
    refine (imgByte_runPages_of_not_covers hcount fun j _ hj => ?_).trans hu
    rw [Nat.zero_add, pageCount_eq] at hj
    exact hloads ▸ h j hj
  unfold loadUnit
  dsimp only
  rw [imgByte_emit, imgByte_sysWrite, imgByte_sysWrite, imgByte_sysWrite, imgByte_setCur]
  exact hpages (if headerValid s.loads i then s else emit (.diag (.headerChecksumInvalid i)) s)
    (by split <;> rfl) (by split <;> rfl)

/-- A load leaves every byte that no page of the unit with the id covers. -/
theorem imgByte_loadIntoRAM_of_not_covers {id : Byte} {x : Nat} {s : State}
    (h : ∀ i j, FirstUnit s.loads id i → j < storedCount s.loads i → ¬ PageCovers s.loads i j x) :
    imgByte (loadIntoRAM id s) x = imgByte s x := by
  unfold loadIntoRAM
  split
  next i hi => exact imgByte_loadUnit_of_not_covers fun j hj => h i j ((findUnit_eq_some _ _ _).mp hi) hj
  next => rfl

theorem imgByte_triggerLoad_of_not_covers {x : Nat} {s : State}
    (h : ∀ i j, FirstUnit s.loads s.sys.b80 i → j < storedCount s.loads i → ¬ PageCovers s.loads i j x) :
    imgByte (triggerLoad s) x = imgByte s x :=
  imgByte_loadIntoRAM_of_not_covers (s := emit (.masterRead 0x0080#16 s.sys.b80) s) h

/-- Bank 3 stays through a load (R172). -/
theorem imgByte_triggerLoad_rom {x : Nat} (hx : 6144 ≤ x) (s : State) : imgByte (triggerLoad s) x = imgByte s x :=
  imgByte_triggerLoad_of_not_covers fun _ _ _ _ hcovers => absurd (pageCovers_lt hcovers) (by omega)

theorem targetIndex_loadTrigger {s : State} (hp1 : s.p1 = 3#2) : targetIndex loadTrigger s = 0x1850 := by
  have hbank : windowBank loadTrigger s = 3#2 := hp1
  rw [targetIndex, resolve, hbank]
  rfl

/-- The byte that the load trigger returns was there before the load. -/
theorem triggerLoad_ret {s : State} (hp1 : s.p1 = 3#2) :
    (triggerLoad s).ret = .byte (imgByte s 0x1850) := by
  have hret : (triggerLoad s).ret =
      .byte (imgByte (triggerLoad s) (targetIndex loadTrigger (triggerLoad s))) := rfl
  rw [hret, targetIndex_loadTrigger (by rw [triggerLoad_eq, hp1]), imgByte_triggerLoad_rom (by decide)]

/-- Settles O17: the load writes only what its pages cover, which never is bank 3. -/
theorem loadTriggerReturnsRomByte : Obligations.LoadTriggerReturnsRomByte := by
  unfold Obligations.LoadTriggerReturnsRomByte
  intro s hs hidle
  refine ⟨fun hp1 => ⟨triggerLoad s, exec_accLoad_taken hs hp1, ?_, ?_, ?_⟩, exec_accLoad_idle hs⟩
  · have hcur : (triggerLoad s).cur = s.cur :=
      (loadIntoRAM_cur _ (s := emit (.masterRead 0x0080#16 s.sys.b80) s) hidle).trans hidle.symm
    rw [← triggerLoad_ret hp1, ← hcur]
    exact triggerLoad_eq s
  · exact fun o => imgByte_triggerLoad_rom (Nat.le_add_right _ _) s
  · exact fun a h => imgByte_triggerLoad_of_not_covers h

end Sys2Proof.Machine

/-! PROOFS. The family of the bank configuration: what ApplyConfig makes of the fields of its byte, and that bits 7:5 are no field of it. -/

namespace Sys2Proof.Machine

/-- What ApplyConfig leaves, by the fields of its byte: bits 7:5 enter nothing (R140 to R147). -/
theorem applyConfig_configByte (g m : BitVec 3) (w p : Bool) (C : Cycles) (s : State) :
    applyConfig (configByte g m w p) C s =
      { s with
        cb := BitVec.ofNat 5 (m.toNat * 4 + w.toNat * 2 + p.toNat)
        rp := !p, poc := if p = true then s.poc else C, we := w, p0 := (modeTable m).1, p1 := (modeTable m).2
        events := s.events ++ [.bankChanged] } := by
  obtain ⟨-, hm, hw, hp, hnat⟩ := fields_configByte g m w p
  have hcb : (configByte g m w p).setWidth 5 = BitVec.ofNat 5 (m.toNat * 4 + w.toNat * 2 + p.toNat) := by
    apply BitVec.eq_of_toNat_eq
    rw [BitVec.toNat_setWidth, BitVec.toNat_ofNat, hnat]
    omega
  rw [applyConfig, hcb, hm, hw, hp]
  rfl

/-- Settles O26: each row is ApplyConfig of the byte with its fields, and its banks are its line of the paging table. -/
theorem configRowsApplyModeTable : Obligations.ConfigRowsApplyModeTable := by
  unfold Obligations.ConfigRowsApplyModeTable
  intro g w p s
  have hrow (m : BitVec 3) := congrArg (Host.Outcome.next : State → Result) (applyConfig_configByte g m w p s.now.C s)
  exact ⟨hrow 0#3, hrow 1#3, hrow 2#3, hrow 3#3, hrow 4#3, hrow 5#3, hrow 6#3, hrow 7#3⟩

/-- Bits 7:5 of a configuration byte have no effect (R145). -/
theorem applyConfig_low_bits (v : Byte) (C : Cycles) (s : State) :
    applyConfig (v &&& 0x1F#8) C s = applyConfig v C s := by
  have hlow : v &&& 0x1F#8 = configByte 0#3 (cfgMode v) (cfgW v) (cfgP v) := by revert v; decide
  conv_rhs => rw [← configByte_fields v]
  rw [hlow, applyConfig_configByte, applyConfig_configByte]

/-- Settles O28: the row of a byte is ApplyConfig of it, which has the same effect with bits 7:5 cleared. -/
theorem everyConfigByteIsApplied : Obligations.EveryConfigByteIsApplied := by
  unfold Obligations.EveryConfigByteIsApplied
  intro v s
  rw [exec_decodeConfig, exec_decodeConfig, applyConfig_low_bits, applyConfig_eq_configured]
  exact ⟨rfl, rfl⟩

end Sys2Proof.Machine

/-! PROOFS. The family of the image load: what a page, the page loop, a load and two loads leave in the bank array, a load that finds no unit, and the store that a construction builds. -/

namespace Sys2Proof.Machine

/-! ## One page (R163, R168 to R172) -/

/-- What a page of a unit of the store leaves at every index, by the store's bytes. -/
theorem imgByte_processPage (d : Byte) {s : State} (hi : s.cur.unit < unitCount s.loads) (hj : s.cur.page < 32)
    (x : Nat) :
    imgByte (processPage d s) x =
      if d.toNat % 4 ≠ 3 ∧ descriptorDest d ≤ x ∧ x < descriptorDest d + 256 then
        storeByte s.loads (s.cur.unit * 8448 + s.cur.page * 256 + (x - descriptorDest d))
      else imgByte s x := by
  obtain ⟨hdest, hbank⟩ := pageDest_eq d
  split
  next h =>
    obtain ⟨hram, hlo, hhi⟩ := h
    have hcopy (u : State) :
        imgByte (writeBytes (pageDest d) (pageSource s.loads s.cur.unit s.cur.page) u) x =
          storeByte s.loads (s.cur.unit * 8448 + s.cur.page * 256 + (x - descriptorDest d)) := by
      rw [imgByte_writeBytes, pageSource_length hi hj, hdest, if_pos ⟨hlo, hhi⟩, pageSource_getD _ _ _ (by omega)]
    unfold processPage
    dsimp only
    rw [if_neg (mt hbank.mp hram)]
    exact hcopy _
  next h =>
    refine imgByte_processPage_of_not_covers fun hram => ?_
    rw [Ne, hbank] at hram
    omega

/-- The loop body under descriptor `d` has the effect of the rules (R163, R168 to R172). -/
theorem pageEffect_processPage (d : Byte) {s : State} (hi : s.cur.unit < unitCount s.loads) (hj : s.cur.page < 32) :
    PageEffect d.toNat s (processPage d s) := by
  have hvalid : pageValid s.loads s.cur.unit s.cur.page d = decide
      ((((List.range 256).map fun k => (storeByte s.loads (s.cur.unit * 8448 + s.cur.page * 256 + k)).toNat).sum +
        d.toNat + (storeByte s.loads (s.cur.unit * 8448 + 8192 + 64 + s.cur.page)).toNat) % 256 = 0x55) := by
    rw [pageValid, decide_eq_decide, ← BitVec.toNat_inj, sum8_page d hi hj]
    rfl
  refine ⟨?_, imgByte_processPage d hi hj⟩
  rw [processPage_eq, processPage_cur, processPage_events, hvalid]
  cases s.cur.seen <;> simp [pageReport]

/-- Settles O31: each row is the loop body under the descriptor with its fields. -/
theorem descriptorRowsCheckAndCopy : Obligations.DescriptorRowsCheckAndCopy := by
  unfold Obligations.DescriptorRowsCheckAndCopy
  intro g q s hi hj
  have hrow (b : BankIx) : ∃ t, (.next (processPage (descriptorByte g q b) s) : Result) = .next t ∧
      PageEffect (g.toNat * 32 + q.toNat * 4 + b.toNat) s t := by
    obtain ⟨-, -, -, hnat⟩ := fields_descriptorByte g q b
    exact ⟨_, rfl, hnat ▸ pageEffect_processPage _ hi hj⟩
  exact ⟨hrow 0#2, hrow 1#2, hrow 2#2, hrow 3#2⟩

/-- The row of a page descriptor is the loop body under it, whole: decoding and assembling it again drops no bit (R168). -/
theorem exec_decodeDescriptor (d : Byte) (s : State) : exec (decodeDescriptor d) s = .next (processPage d s) := by
  have hrow (b : BankIx) (hb : (descBank d).toNat = b.toNat) :
      (.next (processPage (descriptorByte (descIgnored d) (descPage d) b) s) : Result) =
        .next (processPage d s) := by
    rw [← BitVec.eq_of_toNat_eq hb, descriptorByte_fields]
  unfold decodeDescriptor
  split
  next h => exact hrow 0#2 h
  next h => exact hrow 1#2 h
  next h => exact hrow 2#2 h
  next =>
    refine hrow 3#2 (?_ : (descBank d).toNat = 3)
    have := (descBank d).isLt
    simp only [imp_false] at *
    omega

/-- Settles O32, by the recursion of the page loop and the row of a descriptor. -/
theorem loadLoopRunsDescriptors : Obligations.LoadLoopRunsDescriptors :=
  ⟨fun _ => rfl, fun _ s => ⟨exec_decodeDescriptor _ s, rfl⟩⟩

/-! ## The pages of a load (R163, R169, R172) -/

/-- Page `j` is the last of the first `n` pages of unit `i` that covers index `x`. -/
def LastCover (loads : List Byte) (i n j x : Nat) : Prop :=
  j < n ∧ PageCovers loads i j x ∧ ∀ j', j < j' → j' < n → ¬ PageCovers loads i j' x

/-- The byte that page `j` of unit `i` puts at index `x`. -/
def coverByte (loads : List Byte) (i j x : Nat) : Byte :=
  storeByte loads (i * 8448 + j * 256 + (x - descriptorDest (storedDescriptor loads i j)))

/-- Where one of the `k` pages from page `p` on covers an index, the last one that does fills it. -/
theorem imgByte_runPages_of_lastCover {loads : List Byte} {i p k j x : Nat} {s : State} (hloads : s.loads = loads)
    (hunit : s.cur.unit = i) (hpage : s.cur.page = p) (hi : i < unitCount loads) (hk : p + k ≤ 32) (hj : p ≤ j)
    (hlast : LastCover loads i (p + k) j x) : imgByte (runPages k s) x = coverByte loads i j x := by
  induction k generalizing s p with
  | zero => exact absurd hlast.1 (by omega)
  | succ k ih =>
    subst hloads hunit hpage
    rw [runPages]
    rcases Nat.eq_or_lt_of_le hj with rfl | hlt
    · obtain ⟨-, hcovers, hlater⟩ := hlast
      rw [imgByte_runPages_of_not_covers, imgByte_processPage _ hi (by omega), pageDescriptor_eq _ _ (by omega)]
      · exact if_pos hcovers
      · rw [processPage_cur]
        dsimp only
        omega
      · rw [processPage_cur, processPage_loads]
        exact fun j' hj' hlt => hlater j' hj' (by dsimp only at hlt; omega)
    · have hnext :
          (processPage (pageDescriptor s.loads s.cur.unit s.cur.page) s).cur.page + k = s.cur.page + (k + 1) :=
        Nat.add_right_comm s.cur.page 1 k
      exact ih (processPage_loads _ s) rfl rfl (by rwa [hnext]) hlt (by rwa [hnext])

/-- In the bank array a load is its page loop, from page 0 on. -/
theorem exists_runPages_of_loadUnit (i : Nat) (s : State) :
    ∃ u : State, u.loads = s.loads ∧ u.cur.unit = i ∧ u.cur.page = 0 ∧
      ∀ x, imgByte (loadUnit i s) x = imgByte (runPages (storedCount s.loads i) u) x := by
  refine ⟨{ (if headerValid s.loads i then s else emit (.diag (.headerChecksumInvalid i)) s) with
    cur := ⟨i, 0, false⟩ }, ?_, rfl, rfl, fun x => ?_⟩
  · split <;> rfl
  · unfold loadUnit
    dsimp only
    rw [imgByte_emit, imgByte_sysWrite, imgByte_sysWrite, imgByte_sysWrite, imgByte_setCur, pageCount_eq]

theorem imgByte_loadUnit_of_lastCover {i j x : Nat} {s : State} (hi : i < unitCount s.loads)
    (hlast : LastCover s.loads i (storedCount s.loads i) j x) :
    imgByte (loadUnit i s) x = coverByte s.loads i j x := by
  obtain ⟨u, hloads, hunit, hpage, hbyte⟩ := exists_runPages_of_loadUnit i s
  have hcount : 0 + storedCount s.loads i ≤ 32 := (Nat.zero_add _).trans_le (Nat.min_le_right _ _)
  rw [hbyte, imgByte_runPages_of_lastCover hloads hunit hpage hi hcount (Nat.zero_le j) (by rwa [Nat.zero_add])]

/-! ## The load trigger with a unit that has the id, and without one -/

theorem triggerLoad_of_firstUnit {s : State} {i : Nat} (hfirst : FirstUnit s.loads s.sys.b80 i) :
    triggerLoad s = returnData loadTrigger (loadUnit i (emit (.masterRead 0x0080#16 s.sys.b80) s)) := by
  rw [triggerLoad, loadIntoRAM, emit_loads, (findUnit_eq_some _ _ _).mpr hfirst]

theorem imgByte_triggerLoad_of_lastCover {s : State} {i j x : Nat} (hfirst : FirstUnit s.loads s.sys.b80 i)
    (hlast : LastCover s.loads i (storedCount s.loads i) j x) :
    imgByte (triggerLoad s) x = coverByte s.loads i j x := by
  rw [triggerLoad_of_firstUnit hfirst, returnData, imgByte_returning]
  exact imgByte_loadUnit_of_lastCover (s := emit (.masterRead 0x0080#16 s.sys.b80) s) hfirst.1 hlast

/-- Storage order names one first unit (R164). -/
theorem FirstUnit.unique {l : List Byte} {id : Byte} {i i' : Nat} (h : FirstUnit l id i) (h' : FirstUnit l id i') :
    i = i' :=
  Option.some.inj (((findUnit_eq_some l id i).mpr h).symm.trans ((findUnit_eq_some l id i').mpr h'))

theorem imgByte_triggerLoad_of_firstUnit_not_covers {s : State} {i x : Nat} (hfirst : FirstUnit s.loads s.sys.b80 i)
    (h : ∀ j, j < storedCount s.loads i → ¬ PageCovers s.loads i j x) : imgByte (triggerLoad s) x = imgByte s x :=
  imgByte_triggerLoad_of_not_covers fun _ j hi' hj => hi'.unique hfirst ▸ h j (hi'.unique hfirst ▸ hj)

/-- Settles O33: the pages of the first unit with the id fill what they cover, the last one winning. -/
theorem loadFillsNamedPages : Obligations.LoadFillsNamedPages := by
  unfold Obligations.LoadFillsNamedPages
  intro s i hs hp1 hfirst
  exact ⟨_, exec_accLoad_taken hs hp1,
    fun a j hj hcovers hlater => imgByte_triggerLoad_of_lastCover hfirst ⟨hj, hcovers, hlater⟩,
    fun a h => imgByte_triggerLoad_of_firstUnit_not_covers hfirst h⟩

theorem triggerLoad_of_no_unit {s : State} (hnone : ∀ i, ¬ FirstUnit s.loads s.sys.b80 i) :
    triggerLoad s = returnData loadTrigger
      (emit (.diag (.loadMissing s.sys.b80)) (emit (.masterRead 0x0080#16 s.sys.b80) s)) := by
  rw [triggerLoad, loadIntoRAM, emit_loads, findUnit_eq_none hnone]

/-- Settles O35: the search finds nothing, and what is left of the access are its two events and its byte. -/
theorem missingLoadOnlyReports : Obligations.MissingLoadOnlyReports := by
  unfold Obligations.MissingLoadOnlyReports
  intro s hs hp1 hnone
  rw [exec_accLoad_taken hs hp1, triggerLoad_of_no_unit hnone, returnData, targetIndex_loadTrigger (by exact hp1),
    imgByte_emit, imgByte_emit]
  simp [returning, emit]

/-- Settles O52: after the header diagnostic, the page diagnostic and the hand-off writes the load sends `BankChanged`. -/
theorem loadEndsWithBankChanged : Obligations.LoadEndsWithBankChanged := by
  unfold Obligations.LoadEndsWithBankChanged
  intro s i hs hp1 hfirst
  refine ⟨_, [.masterRead 0x0080#16 s.sys.b80] ++
    (if headerValid s.loads i then [] else [.diag (.headerChecksumInvalid i)]) ++
    pageReport i ((List.range (pageCount s.loads i)).find? (badPage s.loads i)) ++
    [.masterWrite 0x00FE#16 (headerByte s.loads i 0), .masterWrite 0x00FF#16 (headerByte s.loads i 1),
      .masterWrite 0x0080#16 (headerByte s.loads i 2)], exec_accLoad_taken hs hp1, ?_⟩
  rw [triggerLoad_of_firstUnit hfirst, returnData, returning_events, loadUnit_events, emit_events, emit_loads]
  simp

/-! ## Two loads (R176)

Of two units with disjoint destinations the later load leaves what the earlier one filled, so each byte is settled by the one unit that covers it, if one does. -/

/-- The load trigger with load id `id` in the scratch byte 0x0080. -/
def loadAs (id : Byte) (s : State) : State := triggerLoad { s with sys := { s.sys with b80 := id } }

theorem exec_accLoad_loadAs {id : Byte} {s : State} (hs : s.ready = true) (hp1 : s.p1 = 3#2) :
    exec .accLoad { s with sys := { s.sys with b80 := id } } = .next (loadAs id s) :=
  exec_accLoad_taken hs hp1

theorem loadAs_ready (id : Byte) (s : State) : (loadAs id s).ready = s.ready := by rw [loadAs, triggerLoad_eq]

theorem loadAs_p1 (id : Byte) (s : State) : (loadAs id s).p1 = s.p1 := by rw [loadAs, triggerLoad_eq]

theorem loadAs_loads (id : Byte) (s : State) : (loadAs id s).loads = s.loads := by rw [loadAs, triggerLoad_eq]

section
variable {s : State} {id : Byte} {i x : Nat} (hfirst : FirstUnit s.loads id i)
include hfirst

theorem imgByte_loadAs_of_lastCover {j : Nat} (hlast : LastCover s.loads i (storedCount s.loads i) j x) :
    imgByte (loadAs id s) x = coverByte s.loads i j x :=
  imgByte_triggerLoad_of_lastCover (s := { s with sys := { s.sys with b80 := id } }) hfirst hlast

theorem imgByte_loadAs_of_not_covers (h : ∀ j, j < storedCount s.loads i → ¬ PageCovers s.loads i j x) :
    imgByte (loadAs id s) x = imgByte s x :=
  imgByte_triggerLoad_of_firstUnit_not_covers (s := { s with sys := { s.sys with b80 := id } }) hfirst h

end

/-- Among the pages of a unit that cover an index there is a last one. -/
theorem exists_lastCover {loads : List Byte} {i n x : Nat} (h : ∃ j, j < n ∧ PageCovers loads i j x) :
    ∃ j, LastCover loads i n j x := by
  induction n with
  | zero => simp at h
  | succ n ih =>
    by_cases hn : PageCovers loads i n x
    · exact ⟨n, n.lt_succ_self, hn, fun j' hlt hle => absurd hle (by omega)⟩
    · obtain ⟨j, hj, hcovers⟩ := h
      have hjn : j < n := Nat.lt_of_le_of_ne (Nat.le_of_lt_succ hj) fun he => hn (he ▸ hcovers)
      obtain ⟨m, hm, hcov, hlater⟩ := ih ⟨j, hjn, hcovers⟩
      refine ⟨m, hm.trans n.lt_succ_self, hcov, fun j' hlt hle => ?_⟩
      rcases Nat.lt_succ_iff_lt_or_eq.mp hle with hlt' | rfl
      · exact hlater j' hlt hlt'
      · exact hn

section
variable {s : State} {x y : Byte} {i j k a : Nat} (hi : FirstUnit s.loads x i) (hj : FirstUnit s.loads y j)

include hj in
theorem imgByte_two_loads_of_second_not_covers
    (h : ∀ k, k < storedCount s.loads j → ¬ PageCovers s.loads j k a) :
    imgByte (loadAs y (loadAs x s)) a = imgByte (loadAs x s) a := by
  rw [← loadAs_loads x s] at hj h
  exact imgByte_loadAs_of_not_covers hj h

include hj in
theorem imgByte_two_loads_of_second_lastCover (hlast : LastCover s.loads j (storedCount s.loads j) k a) :
    imgByte (loadAs y (loadAs x s)) a = coverByte s.loads j k a := by
  rw [← loadAs_loads x s] at hj hlast ⊢
  exact imgByte_loadAs_of_lastCover hj hlast

include hi hj

theorem imgByte_two_loads_of_first_lastCover (hdisjoint : DisjointDests s.loads i j)
    (hlast : LastCover s.loads i (storedCount s.loads i) k a) :
    imgByte (loadAs y (loadAs x s)) a = coverByte s.loads i k a := by
  obtain ⟨hk, hcovers, hlater⟩ := hlast
  rw [imgByte_two_loads_of_second_not_covers hj fun k' hk' => hdisjoint k k' a hk hk' hcovers,
    imgByte_loadAs_of_lastCover hi ⟨hk, hcovers, hlater⟩]

theorem imgByte_two_loads_of_not_covers (h : ∀ k, k < storedCount s.loads i → ¬ PageCovers s.loads i k a)
    (h' : ∀ k, k < storedCount s.loads j → ¬ PageCovers s.loads j k a) :
    imgByte (loadAs y (loadAs x s)) a = imgByte s a := by
  rw [imgByte_two_loads_of_second_not_covers hj h', imgByte_loadAs_of_not_covers hi h]

/-- Loads of units with disjoint destinations leave the same bank array in either order. -/
theorem imgByte_two_loads_comm (hdisjoint : DisjointDests s.loads i j) (a : Nat) :
    imgByte (loadAs y (loadAs x s)) a = imgByte (loadAs x (loadAs y s)) a := by
  have hdisjoint' : DisjointDests s.loads j i := fun k k' a hk hk' h h' => hdisjoint k' k a hk' hk h' h
  by_cases hci : ∃ k, k < storedCount s.loads i ∧ PageCovers s.loads i k a
  · obtain ⟨k, hlast⟩ := exists_lastCover hci
    rw [imgByte_two_loads_of_first_lastCover hi hj hdisjoint hlast, imgByte_two_loads_of_second_lastCover hi hlast]
  by_cases hcj : ∃ k, k < storedCount s.loads j ∧ PageCovers s.loads j k a
  · obtain ⟨k, hlast⟩ := exists_lastCover hcj
    rw [imgByte_two_loads_of_second_lastCover hj hlast, imgByte_two_loads_of_first_lastCover hj hi hdisjoint' hlast]
  have hni (k : Nat) (hk : k < storedCount s.loads i) : ¬ PageCovers s.loads i k a := fun h => hci ⟨k, hk, h⟩
  have hnj (k : Nat) (hk : k < storedCount s.loads j) : ¬ PageCovers s.loads j k a := fun h => hcj ⟨k, hk, h⟩
  rw [imgByte_two_loads_of_not_covers hi hj hni hnj, imgByte_two_loads_of_not_covers hj hi hnj hni]

end

/-- Settles O36: of the two units at most one covers a byte, and then its last page there gives it in either order. -/
theorem disjointLoadsCommute : Obligations.DisjointLoadsCommute := by
  unfold Obligations.DisjointLoadsCommute
  intro s x y i j hs hp1 hi hj hdisjoint
  have hsecond (first second : Byte) :
      exec .accLoad { loadAs first s with sys := { (loadAs first s).sys with b80 := second } } =
        .next (loadAs second (loadAs first s)) :=
    exec_accLoad_loadAs ((loadAs_ready first s).trans hs) ((loadAs_p1 first s).trans hp1)
  exact ⟨loadAs x s, loadAs y (loadAs x s), loadAs y s, loadAs x (loadAs y s),
    exec_accLoad_loadAs hs hp1, hsecond x y, exec_accLoad_loadAs hs hp1, hsecond y x,
    imgByte_two_loads_comm hi hj hdisjoint,
    fun _ => ⟨
      fun _ hk hcovers hlater => imgByte_two_loads_of_first_lastCover hi hj hdisjoint ⟨hk, hcovers, hlater⟩,
      fun _ hk hcovers hlater => imgByte_two_loads_of_second_lastCover hj ⟨hk, hcovers, hlater⟩⟩,
    fun _ hni hnj => imgByte_two_loads_of_not_covers hi hj hni hnj⟩

/-! ## The store of a construction (R160) -/

theorem constructStore_of_minStore_le {image : List Byte} (h : minStore ≤ image.length) :
    constructStore image = image := if_neg (by omega)

/-- The part of a store below the default header is one program area long. -/
theorem length_constructStore_program (image : List Byte) :
    (image.take 8192 ++ (List.range' image.length (8192 - image.length)).map Config.gapFill).length = 8192 := by
  rw [List.length_append, List.length_take, List.length_map, List.length_range']
  omega

section
variable {image : List Byte} {o : Nat} (h : image.length < minStore)
include h

theorem storeByte_constructStore_program (ho : o < 8192) :
    storeByte (constructStore image) o =
      storeByte (image.take 8192 ++ (List.range' image.length (8192 - image.length)).map Config.gapFill) o := by
  rw [constructStore, if_pos h]
  exact List.getD_append _ _ _ _ (by rwa [length_constructStore_program image])

theorem storeByte_constructStore_image (hin : o < image.length) (ho : o < 8192) :
    storeByte (constructStore image) o = storeByte image o := by
  rw [storeByte_constructStore_program h ho, storeByte, List.getD_append _ _ _ _ (by rw [List.length_take]; omega)]
  exact getD_take image ho

theorem storeByte_constructStore_gap (hout : image.length ≤ o) (ho : o < 8192) :
    storeByte (constructStore image) o = Config.gapFill o := by
  rw [storeByte_constructStore_program h ho, storeByte, List.take_of_length_le (by omega),
    List.getD_append_right _ _ _ _ hout]
  simp [List.getD, show o - image.length < 8192 - image.length by omega, hout]

theorem storeByte_constructStore_header (ho : o < 256) :
    storeByte (constructStore image) (8192 + o) = Config.defaultHeader o := by
  have hlen := length_constructStore_program image
  rw [constructStore, if_pos h, storeByte, List.getD_append_right _ _ _ _ (by omega), hlen, Nat.add_sub_cancel_left,
    getD_map_range _ _ ho]

end

/-- Settles O49: the store is `constructStore` of the image, and the construction writes neither the queue nor the scratch bytes. -/
theorem constructBuildsStore : Obligations.ConstructBuildsStore := by
  unfold Obligations.ConstructBuildsStore
  intro s
  have hlen := length_constructStore s.now.image
  have hunit : 1 ≤ (constructStore s.now.image).length / 8448 := by
    rw [hlen, minStore]
    omega
  exact ⟨_, rfl, rfl, rfl, rfl, rfl, hlen, hunit, constructStore_of_minStore_le,
    fun h => ⟨fun _ => storeByte_constructStore_image h, fun _ => storeByte_constructStore_gap h,
      fun _ => storeByte_constructStore_header h⟩⟩

end Sys2Proof.Machine

/-! PROOFS. The family of the BIOS injector: the bytes of the injected bank, bank 3 after a reset, and the vector fetches, which are quiet peeks of it. -/

namespace Sys2Proof.Machine

/-! ## The injected bank, region by region (R200 to R206) -/

theorem biosByte_vector (n k : Nat) : biosByte n (2044 + k) = Config.vectorQuad k := by
  rw [biosByte, if_pos (Nat.le_add_right 2044 k), Nat.add_sub_cancel_left]

/-- Below the stub's length no vector byte is written (R200's preconditions). -/
theorem biosByte_of_lt_stubLen (n : Nat) {o : Nat} (ho : o < Config.stubLen) :
    biosByte n o =
      if o = Config.accOffset then Config.accDraw n
      else if o = Config.fastbootOffset then Config.fastbootByte
      else Config.biosStub o := by
  have hlen := stubLen_le
  rw [biosByte, if_neg (by omega), if_pos ho]

theorem biosByte_accOffset (n : Nat) : biosByte n Config.accOffset = Config.accDraw n := by
  rw [biosByte_of_lt_stubLen n accOffset_lt, if_pos rfl]

theorem biosByte_fastbootOffset (n : Nat) : biosByte n Config.fastbootOffset = Config.fastbootByte := by
  rw [biosByte_of_lt_stubLen n fastbootOffset_lt, if_neg accOffset_ne_fastbootOffset.symm, if_pos rfl]

theorem biosByte_stub (n : Nat) {o : Nat} (ho : o < Config.stubLen) (hfast : o ≠ Config.fastbootOffset)
    (hacc : o ≠ Config.accOffset) : biosByte n o = Config.biosStub o := by
  rw [biosByte_of_lt_stubLen n ho, if_neg hacc, if_neg hfast]

/-- Both patches lie in the stub, so the fill shows from its end up to the vectors (R201). -/
theorem biosByte_fill (n : Nat) {o : Nat} (hstub : Config.stubLen ≤ o) (ho : o < 2044) : biosByte n o = 0x02#8 := by
  have hfast := fastbootOffset_lt
  have hacc := accOffset_lt
  rw [biosByte, if_neg (by omega), if_neg (by omega), if_neg (by omega), if_neg (by omega)]

/-! ## Bank 3 after a reset -/

theorem exec_hostReset (s : State) : exec .hostReset s = .next (returning .nothing (resetBlock s.now.C s)) := rfl

/-- A reset leaves the injected BIOS of its own draw in bank 3 (R280). -/
theorem imgByte_resetBlock_rom (C : Cycles) (s : State) (o : Nat) :
    imgByte (resetBlock C s) (6144 + o) = biosByte (resetBlock C s).epoch o := by
  have hwf : Memory.wf (resetBlock C s).img = true := wf_redrawImage s
  have hready : (resetBlock C s).ready = true := rfl
  rw [imgByte_rom hwf (Nat.le_add_right 6144 o), hready, imgBase, if_pos rfl, if_neg (by omega),
    Nat.add_sub_cancel_left]

/-- Settles O42: bank 3 is the injected bank, region by region. -/
theorem resetInjectsBios : Obligations.ResetInjectsBios := by
  unfold Obligations.ResetInjectsBios
  refine ⟨⟨two_le_stubLen, stubLen_le, fastbootOffset_lt, accOffset_lt, accOffset_ne_fastbootOffset⟩,
    fun s => ⟨_, exec_hostReset s, ?_⟩⟩
  simp only [imgByte_returning, returning_epoch, Nat.add_assoc 6144 2044, imgByte_resetBlock_rom]
  exact ⟨fun _ => biosByte_stub _, biosByte_fastbootOffset _, biosByte_accOffset _, fun _ => biosByte_fill _,
    fun k _ => biosByte_vector _ k⟩

/-! ## The vector fetches (R205, R282) -/

/-- With no write pending there is none to expire (R103). -/
theorem expired_of_not_wp {s : State} (hwp : s.wp = false) : expired s = s := by
  have hexpired : gateExpired s = false := by rw [gateExpired, hwp, Bool.false_and]
  rw [expired, hexpired]
  rfl

/-- The window address of vector byte `k`. -/
abbrev vectorAddr (k : Nat) : WindowAddr := windowAddr (BitVec.ofNat 16 (0x1FFC + k))

section
variable {k : Nat} {s : State} (hk : k < 4)
include hk

theorem toNat_vectorAddr : (vectorAddr k).toNat = 0x1FFC + k := by
  rw [vectorAddr, windowAddr, toNat_windowAddr, BitVec.toNat_ofNat]
  omega

/-- With no write pending a vector fetch is quiet: it is neither the trigger nor the hotspot, and its page does not arm. -/
theorem quiet_vectorAddr (hwp : s.wp = false) : Quiet .peek (vectorAddr k) s := by
  have haddr := toNat_vectorAddr hk
  refine ⟨fun ⟨_, htrigger, _⟩ => ?_, fun hhot => ?_, fun ⟨hpage, _⟩ => ?_, fun ⟨_, hpending, _⟩ => ?_⟩
  · rw [htrigger, BitVec.toNat_ofNat] at haddr
    omega
  · rw [hhot, BitVec.toNat_ofNat] at haddr
    omega
  · omega
  · exact Bool.false_ne_true (hwp.symm.trans hpending)

theorem backingIndex_vectorAddr (hp1 : s.p1 = 3#2) : backingIndex (vectorAddr k) s = 6144 + (2044 + k) := by
  rw [backingIndex, backingBank, toNat_vectorAddr hk, if_neg (by omega), hp1, BitVec.toNat_ofNat]
  omega

/-- A vector fetch with bank 3 in the upper half and no write pending returns the vector byte and does nothing else. -/
theorem runAccess_vectorAddr (hs : s.ready = true) (hp1 : s.p1 = 3#2) (hwp : s.wp = false) :
    runAccess .peek (vectorAddr k) s = .next (returning (.byte (imgByte s (6144 + (2044 + k)))) s) := by
  have haddr := toNat_vectorAddr hk
  have hin : (vectorAddr k).getLsbD 12 = true := (windowAddr_bit12 _).mpr (by omega)
  rw [runAccess_of_quiet (quiet_vectorAddr hk hwp) hin hs, expired_of_not_wp hwp, returnData,
    targetIndex_eq_backingIndex, backingIndex_vectorAddr hk hp1]

theorem step_of_vectorFetch {data : Byte} {D : Count} {C : Cycles} {rest : List Request}
    (hp : s.pending = .access .peek (BitVec.ofNat 16 (0x1FFC + k)) data D C :: rest) (hs : s.ready = true)
    (hp1 : s.p1 = 3#2) (hwp : s.wp = false) :
    step s = .next (returning (.byte (imgByte s (6144 + (2044 + k))))
      (present (.access .peek (BitVec.ofNat 16 (0x1FFC + k)) data D C) rest s)) :=
  (step_of_pending hp).trans (runAccess_vectorAddr hk hs hp1 hwp)

end

/-- Settles O43: a reset selects bank 3 and discards a pending write, so the fetch reads the injected vector. -/
theorem vectorsReadAfterReset : Obligations.VectorsReadAfterReset := by
  unfold Obligations.VectorsReadAfterReset
  intro s t k data D C rest ht hk
  cases (exec_hostReset s).symm.trans ht
  refine ⟨_, step_of_vectorFetch hk rfl rfl rfl rfl, ?_⟩
  rw [← biosByte_vector (resetBlock s.now.C s).epoch k, ← imgByte_resetBlock_rom]
  rfl

end Sys2Proof.Machine

/-! PROOFS. The family of the host interface: what the queries and the calls that reconfigure leave, the bus pages of the window, and a save-state restored. -/

namespace Sys2Proof.Machine

/-! ## The host operations as functions of the state (R220 to R226) -/

theorem exec_hostInstall (s : State) :
    exec .hostInstall s = .next (returning .nothing (applyConfig 0#8 s.now.C (claimWindow s))) := rfl

theorem exec_hostSetbank (s : State) :
    exec .hostSetbank s = .next (returning (.bool true) (applyConfig (BitVec.ofNat 8 s.now.n) s.now.C s)) := rfl

theorem exec_hostOnsystemcyclesreset (s : State) :
    exec .hostOnsystemcyclesreset s = .next { s with poc := s.poc - s.now.C, ret := .nothing } := rfl

/-- Settles O46: each query is its answer, returned. -/
theorem queriesChangeNothing : Obligations.QueriesChangeNothing := by
  unfold Obligations.QueriesChangeNothing
  exact fun s => ⟨rfl, rfl, rfl⟩

/-- Settles O45: a configuration byte is its argument's low byte, which `BitVec.ofNat` takes (R221). -/
theorem setBankAppliesLowByte : Obligations.SetBankAppliesLowByte := by
  unfold Obligations.SetBankAppliesLowByte
  intro s
  have hlow : BitVec.ofNat 8 s.now.n = BitVec.ofNat 8 (s.now.n % 256) :=
    BitVec.eq_of_toNat_eq (by rw [BitVec.toNat_ofNat, BitVec.toNat_ofNat, Nat.mod_mod])
  rw [exec_hostSetbank, applyConfig_eq_configured, hlow]
  rfl

/-- Settles O48: `x - (POC - C_old) = (C_old + x) - POC`, modulo 2^64 (R226). -/
theorem rebaseKeepsElapsedCycles : Obligations.RebaseKeepsElapsedCycles := by
  unfold Obligations.RebaseKeepsElapsedCycles
  intro s
  have helapsed (x : Cycles) : x - (s.poc - s.now.C) = (s.now.C + x) - s.poc := by
    rw [sub_sub_eq_add_sub, add_comm]
  exact ⟨_, exec_hostOnsystemcyclesreset s, rfl, helapsed⟩

/-! ## The bus pages of the window (R220) -/

/-- The pages of size `p` that meet an interval are those from its first address's page to its last one's. -/
theorem exists_div_eq_iff {lo hi p k : Nat} (hp : 0 < p) (hle : lo ≤ hi) :
    (∃ a, lo ≤ a ∧ a ≤ hi ∧ k = a / p) ↔ lo / p ≤ k ∧ k ≤ hi / p := by
  constructor
  · rintro ⟨a, hlo, hhi, rfl⟩
    exact ⟨Nat.div_le_div_right hlo, Nat.div_le_div_right hhi⟩
  · rintro ⟨hlo, hhi⟩
    -- the page's first address in the interval
    refine ⟨max lo (k * p), Nat.le_max_left _ _, Nat.max_le.mpr ⟨hle, (Nat.le_div_iff_mul_le hp).mp hhi⟩, ?_⟩
    have hdiv : Monotone (· / p : Nat → Nat) := fun _ _ h => Nat.div_le_div_right h
    calc k = max (lo / p) (k * p / p) := by rw [Nat.mul_div_cancel _ hp, Nat.max_eq_right hlo]
      _ = max lo (k * p) / p := (hdiv.map_max).symm

theorem mem_windowPages (shift k : Nat) :
    k ∈ windowPages shift ↔ ∃ addr, 0x1000 ≤ addr ∧ addr ≤ 0x1FFF ∧ k = addr / 2 ^ shift := by
  have horder : 0x1000 / 2 ^ shift ≤ 0x1FFF / 2 ^ shift := Nat.div_le_div_right (by decide)
  rw [exists_div_eq_iff (Nat.two_pow_pos shift) (by decide), windowPages, List.mem_range'_1,
    Nat.shiftRight_eq_div_pow, Nat.shiftRight_eq_div_pow]
  omega

/-- Settles O44: the pages are `windowPages`, and configuration 0 is mode 0, read-only, with ROM power. -/
theorem installClaimsWindow : Obligations.InstallClaimsWindow := by
  unfold Obligations.InstallClaimsWindow
  exact fun s => ⟨windowPages Config.busPageShift, exec_hostInstall s, mem_windowPages _⟩

/-! ## Save-states (R229) -/

theorem step_of_save {s : State} {rest : List Request} (hp : s.pending = .save :: rest) :
    step s = .next (returning (.saved (saveState s)) (present .save rest s)) := step_of_pending hp

theorem step_of_restore {s : State} {v : Saved} {rest : List Request} (hp : s.pending = .restore v :: rest) :
    step s = .next (restoreState v (present (.restore v) rest s)) := step_of_pending hp

/-- The saved RAM bytes come back (R229). -/
theorem imgByte_restoreState_saveState_ram (s s' : State) {a : Nat} (ha : a < 6144) :
    imgByte (restoreState (saveState s) s') a = imgByte s a := by
  rw [imgByte_restoreState, length_saveState_ram, Nat.min_self, if_pos ha, saveState_ram_getD s ha]

/-- A restore leaves bank 3 (R229). -/
theorem imgByte_restoreState_rom (v : Saved) (s : State) (o : Nat) :
    imgByte (restoreState v s) (6144 + o) = imgByte s (6144 + o) := by
  rw [imgByte_restoreState, if_neg (by omega)]

/-- Settles O50: the value returned by the save is `saveState s`, and the restore writes its elements. -/
theorem restoreBringsBackSavedState : Obligations.RestoreBringsBackSavedState := by
  unfold Obligations.RestoreBringsBackSavedState
  intro s s' t rest rest' hsave
  refine ⟨saveState s, _, step_of_save hsave, rfl, fun hrestore ht => ?_⟩
  obtain rfl := Host.Outcome.next.inj ((step_of_restore hrestore).symm.trans ht)
  refine ⟨fun a ha => imgByte_restoreState_saveState_ram s _ ha, fun o => ?_, ?_⟩
  · rw [imgByte_restoreState_rom, imgByte_present]
  · simp

end Sys2Proof.Machine

/-! PROOFS. The family of exceptions: the block has none, so every operation that is delivered completes. -/

namespace Sys2Proof.Machine

/-! ## What completes (R250) -/

/-- Only an access can be refused (R51, R283): the row of every other format runs in every state. -/
theorem exec_completes {i : Instr} (hi : i.format ≠ .accessWord) (s : State) : ∃ t, exec i s = .next t := by
  cases i with
  | accLoad | accExpire | accArm | accConfig | accCommit | peekData | pokeEnd => exact absurd rfl hi
  | cfgMode0 | cfgMode1 | cfgMode2 | cfgMode3 | cfgMode4 | cfgMode5 | cfgMode6 | cfgMode7 => exact ⟨_, rfl⟩
  | descBank0 | descBank1 | descBank2 | descRom => exact ⟨_, rfl⟩
  | hostInstall | hostReset | hostSetbank | hostCurrentbank | hostBankcount | hostPatch | hostRawimage
  | hostOnsystemcyclesreset | hostConstruct => exact ⟨_, rfl⟩

/-- A listed selector names a row, which completes (R79). -/
theorem runHost_completes {sel : BitVec 4} (h : sel.toNat ≤ 8) (s : State) : ∃ t, runHost sel s = .next t := by
  obtain ⟨i, hi⟩ := decodeHost_listed h
  obtain ⟨t, ht⟩ := exec_completes (by rw [format_of_decodeHost hi]; decide) s
  exact ⟨t, (runHost_of_decode hi s).trans ht⟩

/-- Settles O8: a delivered access is R100's pseudocode, a listed selector's row completes, and the operations without a row are each one next state. -/
theorem everyOperationCompletes : Obligations.EveryOperationCompletes := by
  unfold Obligations.EveryOperationCompletes
  intro s r rest hp haccess hhost
  cases r with
  | access kind addr data D C =>
    obtain ⟨hready, haddr⟩ := haccess kind addr data D C rfl
    exact ⟨_, step_of_access hp hready (by rwa [windowAddr_getLsbD_12])⟩
  | host sel args =>
    rw [step_of_pending hp]
    exact runHost_completes (hhost sel args rfl) _
  | save => exact ⟨_, step_of_save hp⟩
  | restore v => exact ⟨_, step_of_restore hp⟩
  | systemStore addr v => exact ⟨_, step_of_pending hp⟩

end Sys2Proof.Machine

/-! PROOFS. The family of the reset: the registers, the draw counter and the RAM that HOST.RESET leaves. -/

namespace Sys2Proof.Machine

/-! ## The block after a reset (R280, R281) -/

/-- A reset is its register assignments and `ApplyConfig(0, C)`, whose row of the mode table selects banks 2 and 3. -/
theorem resetBlock_eq (C : Cycles) (s : State) :
    resetBlock C s =
      { s with
        img := [], epoch := s.epoch + 1, ready := true, p0 := 2#2, p1 := 3#2, we := false, rp := true
        poc := C, cb := 0#5, dh := 0#8, na := 0#32, wp := false
        events := s.events ++ [.bankChanged] } := by
  rw [resetBlock, applyConfig_eq_configured]
  rfl

@[simp] theorem resetBlock_epoch (C : Cycles) (s : State) : (resetBlock C s).epoch = s.epoch + 1 := by
  rw [resetBlock_eq]

/-- With no byte listed, RAM reads as the draw of its own reset (R280). -/
theorem imgByte_resetBlock_ram (C : Cycles) (s : State) {a : Nat} (ha : a < 6144) :
    imgByte (resetBlock C s) a = Config.ramDraw (resetBlock C s).epoch a := by
  have hbase : imgByte (resetBlock C s) a = imgBase true (resetBlock C s).epoch a := by
    rw [resetBlock_eq]
    rfl
  rw [hbase, imgBase, if_pos rfl, if_pos ha]

/-- Settles O41: the registers and the frame are `resetBlock_eq`, the draw counter has moved on, and RAM is the new draw. -/
theorem resetLeavesR281State : Obligations.ResetLeavesR281State := by
  unfold Obligations.ResetLeavesR281State
  intro s
  refine ⟨_, exec_hostReset s, ?_, ?_, fun a ha => ?_⟩
  · rw [resetBlock_eq]
    rfl
  · rw [returning_epoch, resetBlock_epoch]
    exact Nat.succ_ne_self s.epoch
  · rw [imgByte_returning, returning_epoch, imgByte_resetBlock_ram s.now.C s ha]

end Sys2Proof.Machine
